-- ==== Sys2Proof/Word.lean ====
section
/-! DEFINITION. The words that cross the block's two ports.

A command is one 32-bit word (`30_encoding.md` R70); stored in byte memory it is four bytes (`20_memory.md` R54);
a sample leaves the block as a 4-bit unsigned numerator code, the denominator 30 implied (`30_encoding.md` R83). -/

namespace Sys2Proof

/-- A command word as presented on the command port (R70). -/
abbrev Word := BitVec 32

/-- One byte of a host's byte memory (R54). -/
abbrev Byte := BitVec 8

/-- The 4-bit numerator code `n` of a sample; the sample is the rational `n/30` (R83). -/
abbrev SampleCode := BitVec 4

end Sys2Proof
end

