-- ==== Sys2Proof/Config.lean ====
section
/-! DEFINITION. The block's parameters (`00_scope.md` R9, R10): what an implementation fixes, the well-formedness check that is
made once on them, and the values the spec leaves open, as constants with no body.

No command reads or writes a parameter as state (`10_state.md` R33), so none of this stands in `Machine.State`. -/

namespace Sys2Proof

/-- The value that terminates a stored sequence (`30_encoding.md` R81). -/
def SENTINEL : Int := -1

/-- `VOL_DEN` (R9): the denominator of the volume scaling, a fixed constant. -/
def VOL_DEN : Nat := 30
/-- `VOL_MAX` (R9). -/
def VOL_MAX : Nat := 15
/-- `CTL_MAX` (R9). -/
def CTL_MAX : Nat := 15
/-- `FRQ_MAX` (R9). -/
def FRQ_MAX : Nat := 31

/-- One entry of `TABLE` (R10): the run lengths, the sentinel implied by the end of the list, and the repeat divisor. -/
structure TableEntry where
  seq : List Nat
  div : Nat
deriving DecidableEq, Repr

/-- R10 (a), (b) and (d): a non-empty sequence of positive run lengths and a divisor of at least 1. -/
abbrev TableEntry.Wf (e : TableEntry) : Prop := e.seq ≠ [] ∧ (∀ r ∈ e.seq, 1 ≤ r) ∧ 1 ≤ e.div

/-- R10 (c): the stored form, the run lengths followed by one sentinel. -/
def TableEntry.stored (e : TableEntry) : List Int := e.seq.map Int.ofNat ++ [SENTINEL]

/-- The run lengths of a stored sequence: positive integers up to the one sentinel that ends it; `none` for a list that is no
stored sequence (`93_implementation_defined.md` U6: a run length that is not positive, a missing sentinel, anything after it). -/
def readStored : List Int → Option (List Nat)
  | [] => none
  | [x] => if x = SENTINEL then some [] else none
  | x :: y :: rest => if 1 ≤ x then (readStored (y :: rest)).map (x.toNat :: ·) else none

/-- A table entry from its stored form and divisor; `none` for an ill-formed one (R10, U6). -/
def TableEntry.ofStored (stored : List Int) (div : Int) : Option TableEntry :=
  match readStored stored with
  | none => none
  | some [] => none
  | some seq => if 1 ≤ div then some ⟨seq, div.toNat⟩ else none

/-- The floating-point format a sample is rendered in (`FLOAT_FMT` of R9): an IEEE 754 binary format, given by the widths of its
exponent and fraction fields. -/
structure FloatFmt where
  expBits : Nat
  fracBits : Nat
deriving DecidableEq, Repr

/-- The check on a format. DEDUCED (log entry 6): with four exponent bits or more the least positive sample, 1/30, is a normal
number, as R84 says of every sample. -/
abbrev FloatFmt.Wf (f : FloatFmt) : Prop := 4 ≤ f.expBits ∧ 1 ≤ f.fracBits

/-- IEEE 754 binary32. -/
def FloatFmt.binary32 : FloatFmt := ⟨8, 23⟩
/-- IEEE 754 binary64. -/
def FloatFmt.binary64 : FloatFmt := ⟨11, 52⟩

/-- The parameters of one block (R9). `NTAB` is the 16 of `table`'s domain. -/
structure Config where
  /-- `F_OUT`, the output sample rate. -/
  fOut : Nat
  /-- `F_NATIVE`, the native rate. -/
  fNative : Nat
  /-- `BLOCK`, the samples one `FILL` produces. -/
  block : Nat
  /-- `TABLE`, a total function on 0..15 (R10). -/
  table : Fin 16 → TableEntry
  /-- `FLOAT_FMT`. -/
  floatFmt : FloatFmt

/-- The check made once on the configuration (R9, R10; `70_reset_and_hazards.md` R203). -/
abbrev Config.Wf (cfg : Config) : Prop :=
  1 ≤ cfg.fOut ∧ 1 ≤ cfg.fNative ∧ 1 ≤ cfg.block ∧ (∀ c, (cfg.table c).Wf) ∧ cfg.floatFmt.Wf

/-! ### Open values: constants with no body -/

/-- Raw data for a table entry the spec does not print, from which `OpenEntry.entry` makes a well-formed entry: every
well-formed entry arises from one of these and nothing else does. -/
structure OpenEntry where
  firstMinusOne : Nat
  restMinusOne : List Nat
  divMinusOne : Nat
deriving Inhabited

/-- The entry: each stored number plus one, so that run lengths and divisor are at least 1 (R10). -/
def OpenEntry.entry (e : OpenEntry) : TableEntry :=
  ⟨(e.firstMinusOne :: e.restMinusOne).map (· + 1), e.divMinusOne + 1⟩

/-- `TABLE(1)` to `TABLE(15)` (R10, U1): "must be reproduced bit-for-bit" and not printed. FREE VALUE, log entry 3. -/
opaque Config.openEntry : Fin 16 → OpenEntry

/-- Raw data for the open float format; every well-formed format arises from one. -/
structure OpenFloatFmt where
  extraExpBits : Nat
  extraFracBits : Nat
deriving Inhabited

/-- The format: at least the widths that `FloatFmt.Wf` asks for. -/
def OpenFloatFmt.fmt (f : OpenFloatFmt) : FloatFmt := ⟨f.extraExpBits + 4, f.extraFracBits + 1⟩

/-- `FLOAT_FMT` (R9, R84, U7): "the source does not name the format". FREE VALUE, log entry 6. -/
opaque Config.openFloatFmt : OpenFloatFmt

end Sys2Proof
end

