-- ==== Sys2Proof/Machine/State.lean ====
section
/-! DEFINITION. The machine's state, its reset, and the ways a step can end other than in a next state (`10_state.md`,
`20_memory.md` R34 and R52, `60_exceptions.md` R180 to R182). -/

namespace Sys2Proof.Machine

/-- An update record `{volume, control, frequencyDivider}` as delivered, before clamping (`10_state.md` R34,
`30_encoding.md` R73). -/
structure UpdateRecord where
  volume : Int
  control : Int
  frequencyDivider : Int
deriving DecidableEq, Repr

/-- One channel. Registers are bounded integers, counters and the accumulator mathematical non-negative integers
(`10_state.md` R20 to R31, `92_eei_decisions.md` D16; log entry 12). -/
structure State where
  /-- `x[0]`, 0..15 (R21). -/
  volume : Fin 16
  /-- `x[1]`, 0..15 (R22). -/
  control : Fin 16
  /-- `x[2]`, 0..31 (R23). -/
  frequencyDivider : Fin 32
  /-- `g.tick` (R26). -/
  tickCounter : Nat
  /-- `g.idx` (R27). -/
  sequenceIndex : Nat
  /-- `g.step` (R28). -/
  stepCounter : Nat
  /-- `g.lvl`, the one flag (R30): `true` is level 1. -/
  currentLevel : Bool
  /-- `g.acc` (R29). -/
  rateAccumulator : Nat
  /-- `pend`, the updates delivered and not yet applied, oldest first (R34). -/
  pend : List UpdateRecord
  /-- The command words presented on the command port and not yet taken, next one first (`30_encoding.md` R70,
  `20_memory.md` R57; log entry 1). -/
  commands : List Word
  /-- The output space: the numerator codes of the samples emitted since power-on, `OUT(n)` at index `n` (`20_memory.md` R52,
  `30_encoding.md` R83; log entry 11). -/
  out : List SampleCode
deriving DecidableEq, Repr

/-- The power-on state (`10_state.md` R36, `70_reset_and_hazards.md` R200): the state after `UPDATE 0, 0, 0`, with no pending
update, no command presented and no sample emitted. The register values are the spec's own decision D7 (log entry 10). -/
def State.reset : State where
  volume := 0
  control := 0
  frequencyDivider := 0
  tickCounter := 0
  sequenceIndex := 0
  stepCounter := 0
  currentLevel := true
  rateAccumulator := 0
  pend := []
  commands := []
  out := []

/-- Faults: none. "No behaviour of the block is treated as fault or stuck" (`93_implementation_defined.md` part 1); a step
has "no fault outcome" (`60_exceptions.md` R182). The type has no constructor, so no definition can answer a fault. -/
inductive Fault
deriving DecidableEq, Repr

/-- Refusals: inputs outside what the spec defines. -/
inductive Refusal where
  /-- Raised by an arm of `exec` that has no meaning yet; no arm does. Safe: the model stops. -/
  | notModelled (mnemonic : String)
  /-- Raised by `step` for a reserved command word (`30_encoding.md` R76, D14). Safe: no behaviour is claimed. -/
  | reservedCommand (w : Word)
  /-- Raised by `powerOn` for parameters that fail the check of R9 and R10 (`60_exceptions.md` R181). Safe: such a machine never
  starts. -/
  | illFormedConfig
  /-- Raised by `deliverRational` for an update record with a field that is no integer (`30_encoding.md` R74, D3). Safe: the
  record is not rounded and the machine stops. -/
  | nonIntegerField
deriving DecidableEq, Repr

end Sys2Proof.Machine
end

