-- ==== Sys2Proof/Machine/Flags.lean ====
section
/-! DEFINITION. The block's one flag, `currentLevel` (`10_state.md` R30, R31). -/

namespace Sys2Proof.Machine

/-- The level of a sequence position: 1 at an even index, 0 at an odd one (`41_tone_sequencer.md` R123 step d,
`30_encoding.md` R80). -/
def levelOf (idx : Nat) : Bool := idx % 2 == 0

/-- A level as the number that multiplies the volume (`42_rate_converter.md` R150). -/
def levelValue (lvl : Bool) : Nat := if lvl then 1 else 0

/-- R123 step d: the level recomputed from the index. -/
def State.relevel (s : State) : State := { s with currentLevel := levelOf s.sequenceIndex }

end Sys2Proof.Machine
end

