-- ==== Sys2Proof/Machine/Operands.lean ====
section
/-! DEFINITION. The operand form of the block: three signed integers saturated to the register ranges, CLAMP
(`40_register_update.md` R100, `00_scope.md` R15). -/

namespace Sys2Proof.Machine

/-- `clamp(v, lo, hi)` (R15). -/
def clamp (v lo hi : Int) : Int := if v < lo then lo else if v > hi then hi else v

/-- `clamp(v, 0, max)` as an element of 0..max. -/
def clampTo (max : Nat) (v : Int) : Fin (max + 1) :=
  ⟨(clamp v 0 max).toNat, by unfold clamp; split <;> (try split) <;> omega⟩

/-- The three operands after CLAMP, each inside the range of the register it feeds. -/
structure Clamped where
  v : Fin (VOL_MAX + 1)
  c : Fin (CTL_MAX + 1)
  f : Fin (FRQ_MAX + 1)
deriving DecidableEq, Repr

/-- CLAMP (R100): each field on its own, to 0..15, 0..15 and 0..31. -/
def clampOperands (v c f : Int) : Clamped := ⟨clampTo VOL_MAX v, clampTo CTL_MAX c, clampTo FRQ_MAX f⟩

end Sys2Proof.Machine
end

