-- ==== Sys2Proof/Machine/Ops.lean ====
section
/-! DEFINITION. The named operations every rule is written over: the parameters this machine runs with, the register file, the two
address spaces, and the update reset.

The block takes no exception and returns from none (`60_exceptions.md` R180, R182), so there is no operation for either. -/

namespace Sys2Proof.Machine

/-! ### Parameters -/

/-- `TABLE(0) = ([1], 1)`, the one entry the source prints (`30_encoding.md` R82, conflict C1; log entry 5). -/
def tableEntryZero : TableEntry := ⟨[1], 1⟩

/-- The table this machine runs with: entry 0 as printed, entries 1 to 15 open (R10, U1; log entry 3). -/
def referenceTable (c : Fin 16) : TableEntry := if c = 0 then tableEntryZero else (Config.openEntry c).entry

/-- The parameters `exec` and `step` run with: the reference values of R9 (log entry 4), the open table entries and the open
float format. Every shared operation takes its parameters as an argument, so a law about it covers every configuration. -/
def reference : Config where
  fOut := 48000
  fNative := 31440
  block := 128
  table := referenceTable
  floatFmt := Config.openFloatFmt.fmt

/-- Starting a block with given parameters: the check of R9 and R10, made once; an ill-formed configuration is refused
(`60_exceptions.md` R181, `70_reset_and_hazards.md` R203; log entry 21). -/
def powerOn (cfg : Config) : Host.Outcome State Fault Refusal :=
  if cfg.Wf then .next State.reset else .refused .illFormedConfig

/-! ### Registers (R13, R20 to R24) -/

/-- `x[i]` (R13). -/
def State.x (s : State) : Fin 3 → Nat
  | 0 => s.volume
  | 1 => s.control
  | 2 => s.frequencyDivider

/-- The only register write there is: all three together (R24). -/
def State.setRegisters (s : State) (r : Clamped) : State :=
  { s with volume := r.v, control := r.c, frequencyDivider := r.f }

/-! ### The table space (`20_memory.md` R50 to R53) -/

/-- `len_c` (R10): run lengths, the sentinel not counted. -/
def seqLen (cfg : Config) (c : Fin 16) : Nat := (cfg.table c).seq.length

/-- `SEQ(c, i)` (R14): run length `i`, or `SENTINEL` at `i = len_c`. Total by R53: `SENTINEL` past the end, a value no rule ever
reads (log entry 13). -/
def seqAt (cfg : Config) (c : Fin 16) (i : Nat) : Int :=
  match (cfg.table c).seq[i]? with
  | some r => (r : Int)
  | none => SENTINEL

/-- `DIV(c)` (R14). -/
def divAt (cfg : Config) (c : Fin 16) : Nat := (cfg.table c).div

/-! ### Derived quantities (`00_scope.md` R11) -/

/-- `P(c, f) = div_c * (f + 1)`, the base ticks of one phase advance. -/
def period (cfg : Config) (c : Fin 16) (f : Fin 32) : Nat := divAt cfg c * (f.val + 1)

/-- `S_c`, the phase advances of one cycle of the waveform. -/
def cycleLength (cfg : Config) (c : Fin 16) : Nat := (cfg.table c).seq.sum

/-- `pre(i)`, the sum of the first `i` run lengths (`41_tone_sequencer.md` R127). -/
def prefixSum (cfg : Config) (c : Fin 16) (i : Nat) : Nat := ((cfg.table c).seq.take i).sum

/-- `G = gcd(F_OUT, F_NATIVE)`. -/
def rateGcd (cfg : Config) : Nat := Nat.gcd cfg.fOut cfg.fNative

/-! ### The output space (`20_memory.md` R52) -/

/-- `Emit`: appends one sample's code to the output stream. -/
def State.emit (s : State) (n : SampleCode) : State := { s with out := s.out ++ [n] }

/-! ### The update reset (`10_state.md` R36, `70_reset_and_hazards.md` R201) -/

/-- All five GeneratorState fields at their reset values; the level is that of index 0 (conflict C2; log entry 7). -/
def State.resetGenerator (s : State) : State :=
  { s with tickCounter := 0, sequenceIndex := 0, stepCounter := 0, currentLevel := levelOf 0, rateAccumulator := 0 }

end Sys2Proof.Machine
end

