-- ==== Sys2Proof/Machine/ToneSequencer.lean ====
section
/-! DEFINITION. The waveform sequencer family: the micro-operations LOOKUP, TICK and ADVANCE (`41_tone_sequencer.md`). -/

namespace Sys2Proof.Machine

/-- What LOOKUP gives: the active sequence, read one element at a time, and its divisor. -/
structure Lookup where
  seq : Nat → Int
  div : Nat

/-- LOOKUP (R120): the table entry that `control` selects, looked up each time it is needed (D22). -/
abbrev lookup (cfg : Config) (s : State) : Lookup := ⟨seqAt cfg s.control, divAt cfg s.control⟩

/-- ADVANCE steps a and b (R123): count one repetition; at the run length, restart the count and move to the next element. The
comparison is equality (D21; log entry 14). -/
def advanceStep (seq : Nat → Int) (s : State) : State :=
  if ((s.stepCounter + 1 : Nat) : Int) = seq s.sequenceIndex then
    { s with stepCounter := 0, sequenceIndex := s.sequenceIndex + 1 }
  else { s with stepCounter := s.stepCounter + 1 }

/-- ADVANCE step c (R123), tested on every ADVANCE: on the sentinel, back to index 0. -/
def wrapIndex (seq : Nat → Int) (s : State) : State :=
  if seq s.sequenceIndex = SENTINEL then { s with sequenceIndex := 0 } else s

/-- ADVANCE (R123): steps a to d in order; step d on every ADVANCE. -/
def advance (cfg : Config) (s : State) : State :=
  (wrapIndex (lookup cfg s).seq (advanceStep (lookup cfg s).seq s)).relevel

/-- TICK (R122): one base chip tick. -/
def tick (cfg : Config) (s : State) : State :=
  if s.tickCounter + 1 = (lookup cfg s).div * (s.x 2 + 1) then advance cfg { s with tickCounter := 0 }
  else { s with tickCounter := s.tickCounter + 1 }

/-- `k` base ticks, for the laws about runs (R127). -/
def ticks (cfg : Config) : Nat → State → State
  | 0, s => s
  | k + 1, s => ticks cfg k (tick cfg s)

end Sys2Proof.Machine
end

