-- ==== Sys2Proof/Machine/RateConverter.lean ====
section
/-! DEFINITION. The rate converter family: EMIT, SAMPLE and FILL, and the reference stream they are compared with
(`42_rate_converter.md`). -/

namespace Sys2Proof.Machine

/-- The numerator code of the sample EMIT emits: `g.lvl * x[0]`, in 0..15 (R150). -/
def sampleNumerator (s : State) : SampleCode := BitVec.ofNat 4 (levelValue s.currentLevel * s.x 0)

/-- EMIT (R150). -/
def emitSample (s : State) : State := s.emit (sampleNumerator s)

/-- One base tick of the rate converter (R151, R152 a): TICK, then `g.acc <- g.acc + F_OUT`. -/
def baseTick (cfg : Config) (s : State) : State :=
  { tick cfg s with rateAccumulator := (tick cfg s).rateAccumulator + cfg.fOut }

/-- R154's bound on the passes of SAMPLE's loop, `ceil((F_NATIVE - g.acc) / F_OUT)`; 0 when nothing is missing. -/
def ticksDue (cfg : Config) (acc : Nat) : Nat := (cfg.fNative - acc + cfg.fOut - 1) / cfg.fOut

/-- SAMPLE's loop `while g.acc < F_NATIVE`, with the passes left as fuel (log entry 22). -/
def tickWhileDue (cfg : Config) : Nat → State → State
  | 0, s => s
  | fuel + 1, s => if s.rateAccumulator < cfg.fNative then tickWhileDue cfg fuel (baseTick cfg s) else s

/-- EMIT followed by `g.acc <- g.acc - F_NATIVE` (R151, R154). -/
def emitAndPay (cfg : Config) (s : State) : State :=
  { emitSample s with rateAccumulator := (emitSample s).rateAccumulator - cfg.fNative }

/-- SAMPLE (R154): base ticks while the accumulator is short of `F_NATIVE`, then exactly one sample. -/
def sample (cfg : Config) (s : State) : State :=
  emitAndPay cfg (tickWhileDue cfg (ticksDue cfg s.rateAccumulator) s)

/-- `n` SAMPLEs in a row (R155, R157; the pseudo-instruction `SAMPLES n` of `30_encoding.md` R78). -/
def samples (cfg : Config) : Nat → State → State
  | 0, s => s
  | n + 1, s => samples cfg n (sample cfg s)

/-- FILL (R155): `BLOCK` samples, in destination order. -/
def fill (cfg : Config) (s : State) : State := samples cfg cfg.block s

/-- The command `SAMPLE` (R154) on a block with given parameters. -/
def execSampleIn (cfg : Config) (s : State) : Host.Outcome State Fault Refusal := .next (sample cfg s)

/-- The command `FILL` (R155) on a block with given parameters. -/
def execFillIn (cfg : Config) (s : State) : Host.Outcome State Fault Refusal := .next (fill cfg s)

/-- `SAMPLE` on the block with the reference parameters (log entry 4). -/
def execSample (s : State) : Host.Outcome State Fault Refusal := execSampleIn reference s

/-- `FILL` on the block with the reference parameters (log entry 4). -/
def execFill (s : State) : Host.Outcome State Fault Refusal := execFillIn reference s

/-! ### The reference stream (R151), the source's own form -/

/-- The emission loop `while g.acc >= F_NATIVE`, with the passes left as fuel. -/
def emitLoop (cfg : Config) : Nat → State → State
  | 0, s => s
  | fuel + 1, s => if cfg.fNative ≤ s.rateAccumulator then emitLoop cfg fuel (emitAndPay cfg s) else s

/-- The emission loop, run to its end: each pass takes `F_NATIVE` away, so `g.acc / F_NATIVE` passes are enough (log entry 22). -/
def emitWhileDue (cfg : Config) (s : State) : State := emitLoop cfg (s.rateAccumulator / cfg.fNative) s

/-- One base tick of the reference stream. -/
def streamTick (cfg : Config) (s : State) : State := emitWhileDue cfg (baseTick cfg s)

/-- `k` base ticks of the reference stream. -/
def stream (cfg : Config) : Nat → State → State
  | 0, s => s
  | k + 1, s => stream cfg k (streamTick cfg s)

end Sys2Proof.Machine
end

