-- ==== Sys2Proof/Machine/RegisterUpdate.lean ====
section
/-! DEFINITION. The register update family: UPDATE (`40_register_update.md` R101 to R104), and the pending updates that are
applied by it (`10_state.md` R34, `20_memory.md` R58). -/

namespace Sys2Proof.Machine

/-- UPDATE as one indivisible step (R101, R102): CLAMP, the full reset of GeneratorState, the three registers stored. It reads
nothing of the old state. -/
def applyUpdate (v c f : Int) (s : State) : State := s.resetGenerator.setRegisters (clampOperands v c f)

/-- The command `UPDATE v, c, f` (R101). -/
def execUpdate (v c f : Int) (s : State) : Host.Outcome State Fault Refusal := .next (applyUpdate v c f s)

/-- Applying delivered updates oldest first, each exactly once (R58 b, c). -/
def applyUpdates : List UpdateRecord → State → State
  | [], s => s
  | u :: us, s => applyUpdates us (applyUpdate u.volume u.control u.frequencyDivider s)

/-- The pending queue drained before a command starts (R58 a, `60_exceptions.md` R184; log entry 2). -/
def drainPending (s : State) : State := applyUpdates s.pend { s with pend := [] }

end Sys2Proof.Machine
end

