-- ==== Sys2Proof/Syntax.lean ====
section
/-! DEFINITION. The block's commands as abstract syntax: the three rows of `spec/opcode_table.json`.

The five micro-operations CLAMP, LOOKUP, TICK, ADVANCE and EMIT have no encoding (`00_scope.md` R3) and are therefore no
constructors; they are definitions of the machine. -/

namespace Sys2Proof

/-- A command (`00_scope.md` R3, `30_encoding.md` R75). The operands of `UPDATE` are the signed integers of R73, before any
clamping: the abstract operation is defined for all integers, the encoding reaches -128 to 127. -/
inductive Instr where
  /-- `UPDATE v_in, c_in, f_in` (R101). -/
  | update (v c f : Int)
  /-- `SAMPLE` (R154). -/
  | sample
  /-- `FILL` (R155). -/
  | fill
deriving DecidableEq, Repr

end Sys2Proof
end

