-- ==== Sys2Proof/Machine/Dispatch.lean ====
section
/-! DEFINITION. One arm per command: the complete command set is `UPDATE`, `SAMPLE`, `FILL` (`60_exceptions.md` R186). -/

namespace Sys2Proof.Machine

def exec (i : Instr) (s : State) : Host.Outcome State Fault Refusal :=
  match i with
  | .update v c f => Sys2Proof.Machine.execUpdate v c f s
  | .sample => Sys2Proof.Machine.execSample s
  | .fill => Sys2Proof.Machine.execFill s

end Sys2Proof.Machine
end

