-- ==== Sys2Proof/WellFormed.lean ====
section
/-! DEFINITION. Which commands have an encoding (`30_encoding.md` R71 to R73). -/

namespace Sys2Proof

/-- The range of a signed 8-bit field (R73: "each in -128..127"). -/
def fitsSigned8 (v : Int) : Bool := decide (-128 ≤ v) && decide (v ≤ 127)

/-- A command is well formed when each of its operands fits the field that carries it (R71, R73). `SAMPLE` and `FILL` have
no operand (R72). -/
def Instr.wellFormed : Instr → Bool
  | .update v c f => fitsSigned8 v && fitsSigned8 c && fitsSigned8 f
  | .sample => true
  | .fill => true

end Sys2Proof
end

