-- ==== Sys2Proof/Decode.lean ====
section
/-! DEFINITION. From words and bytes to commands, and back (`30_encoding.md` R70 to R76, byte order of `20_memory.md` R54). -/

namespace Sys2Proof

/-- Why bits are not a command. -/
inductive DecodeError where
  /-- The word matches no row of the opcode map (R76). -/
  | reservedCommand (w : Word)
  /-- Fewer than the four bytes of a command word are there; every command has the one length of 32 bits (R70). -/
  | truncatedWord (bytes : Nat)
deriving DecidableEq, Repr

/-! ### Bit fields (R12, R71, R72) -/

/-- `W[31:28]`, the opcode. -/
def opField (w : Word) : BitVec 4 := w.extractLsb' 28 4
/-- `W[27:24]`, format U's `zero` field. -/
def zeroFieldU (w : Word) : BitVec 4 := w.extractLsb' 24 4
/-- `W[23:16]`, `vol_in`. -/
def volField (w : Word) : BitVec 8 := w.extractLsb' 16 8
/-- `W[15:8]`, `ctl_in`. -/
def ctlField (w : Word) : BitVec 8 := w.extractLsb' 8 8
/-- `W[7:0]`, `frq_in`. -/
def frqField (w : Word) : BitVec 8 := w.extractLsb' 0 8
/-- `W[27:0]`, format Z's `zero` field. -/
def zeroFieldZ (w : Word) : BitVec 28 := w.extractLsb' 0 28

/-- `sext_8` (R12): the field read as a two's complement signed integer. -/
def sext8 (b : BitVec 8) : Int := b.toInt

/-- The operands of `UPDATE`, assembled from their three fields (R73). -/
def updateOperands (w : Word) : Instr :=
  .update (sext8 (volField w)) (sext8 (ctlField w)) (sext8 (frqField w))

/-- The opcode map (R75): total on words, with the four verdicts `UPDATE`, `SAMPLE`, `FILL` and reserved. -/
def decodeWord (w : Word) : Except DecodeError Instr :=
  if opField w = 0b0001#4 then
    if zeroFieldU w = 0#4 then .ok (updateOperands w) else .error (.reservedCommand w)
  else if opField w = 0b0010#4 then
    if zeroFieldZ w = 0#28 then .ok .sample else .error (.reservedCommand w)
  else if opField w = 0b0011#4 then
    if zeroFieldZ w = 0#28 then .ok .fill else .error (.reservedCommand w)
  else .error (.reservedCommand w)

/-! ### Byte memory: little-endian (R54) -/

/-- The byte order of every encoding of this spec that stands in byte memory (R54): the `k` low bytes of a number, the byte at the
lowest address first, which holds bits 7:0. -/
def leBytes : Nat → Nat → List Byte
  | 0, _ => []
  | k + 1, n => BitVec.ofNat 8 n :: leBytes k (n / 256)

/-- The number that bytes in the order of R54 stand for. -/
def natOfLeBytes : List Byte → Nat
  | [] => 0
  | b :: bs => b.toNat + 256 * natOfLeBytes bs

/-- The word stored in four bytes, `b0` at the lowest address (R54). -/
def wordOfBytes (b0 b1 b2 b3 : Byte) : Word := BitVec.ofNat 32 (natOfLeBytes [b0, b1, b2, b3])

/-- The four bytes of a word, the one at the lowest address first (R54). -/
def bytesOfWord (w : Word) : List Byte := leBytes 4 w.toNat

/-- Decoding from bytes: total on any list, giving the command and the bytes after it. -/
def decodeBytes : List Byte → Except DecodeError (Instr × List Byte)
  | b0 :: b1 :: b2 :: b3 :: rest =>
    match decodeWord (wordOfBytes b0 b1 b2 b3) with
    | .ok i => .ok (i, rest)
    | .error e => .error e
  | bytes => .error (.truncatedWord bytes.length)

/-! ### The encoder -/

/-- The 8-bit two's complement field of an operand (R71). -/
def field8 (v : Int) : BitVec 8 := BitVec.ofInt 8 v

/-- Format U with its opcode and its zero field written out (R71). -/
def formatU (op : BitVec 4) (v c f : BitVec 8) : Word := op ++ 0#4 ++ v ++ c ++ f

/-- Format Z (R72). -/
def formatZ (op : BitVec 4) : Word := op ++ 0#28

/-- The word of a well-formed command (R71, R72, R73). -/
def encode : Instr → Word
  | .update v c f => formatU 0b0001#4 (field8 v) (field8 c) (field8 f)
  | .sample => formatZ 0b0010#4
  | .fill => formatZ 0b0011#4

/-- A command as bytes in a host's memory (R54). -/
def encodeBytes (i : Instr) : List Byte := bytesOfWord (encode i)

/-! ### The opcode table's rows (`opcode_table.json`) -/

/-- One row of the machine-readable opcode map: a word is of the row when its bits under `mask` are `value` (R75). -/
structure OpcodeRow where
  value : Word
  mask : Word
deriving DecidableEq, Repr

/-- Whether a word matches a row. -/
def OpcodeRow.matchesWord (r : OpcodeRow) (w : Word) : Bool := w &&& r.mask == r.value

/-- The row of each command (R75). -/
def opcodeRow : Instr → OpcodeRow
  | .update _ _ _ => ⟨0x10000000#32, 0xFF000000#32⟩
  | .sample => ⟨0x20000000#32, 0xFFFFFFFF#32⟩
  | .fill => ⟨0x30000000#32, 0xFFFFFFFF#32⟩

/-- The three rows of R75. -/
def opcodeRows : List OpcodeRow := [opcodeRow (.update 0 0 0), opcodeRow .sample, opcodeRow .fill]

/-! ### The host's entry -/

/-- The word of an instruction whose bits, numbered as the opcode table numbers them, are `w`; bits from `nbits` up are 0. -/
def tableWord (nbits w : Nat) : Word := BitVec.ofNat 32 (w % 2 ^ nbits)

/-- What the decoder reads from the table's bits: the word is laid out as bytes in the order of R54 and decoded. -/
def decodeTableWord (nbits w : Nat) : Option Instr :=
  match decodeBytes (bytesOfWord (tableWord nbits w)) with
  | .ok (i, _) => some i
  | .error _ => none

end Sys2Proof
end

