-- ==== Sys2Proof/Machine/Port.lean ====
section
/-! DEFINITION. The block's two inputs as the collaborator sees them, the command port and the update channel (`20_memory.md` R58
to R62, `10_state.md` R34), and taking the next command word. What the collaborator does lands between steps (log entry 23). -/

namespace Sys2Proof.Machine

/-- The collaborator presents one more command word, after those already presented (R57, R70). -/
def issue (w : Word) (s : State) : State := { s with commands := s.commands ++ [w] }

/-- The collaborator delivers an update: it is held pending, behind those delivered before it (R34, R58, R62). -/
def deliver (u : UpdateRecord) (s : State) : State := { s with pend := s.pend ++ [u] }

/-- A record field that is a rational number, as an integer if it is one (`30_encoding.md` R74). -/
def integerField (q : Rat) : Option Int := if q.den = 1 then some q.num else none

/-- Delivering an update record whose fields are rationals: a non-integer field is refused by name, never rounded (R74, U10; log
entry 18). -/
def deliverRational (v c f : Rat) (s : State) : Host.Outcome State Fault Refusal :=
  match integerField v, integerField c, integerField f with
  | some v, some c, some f => .next (deliver ⟨v, c, f⟩ s)
  | _, _, _ => .refused .nonIntegerField

/-- Taking the next word off the command port. -/
def takeCommand (rest : List Word) (s : State) : State := { s with commands := rest }

/-- The refusal that answers a word the decoder rejects (R76). -/
def refusalOf (w : Word) : Refusal := .reservedCommand w

/-- Going on from a next state; a fault or a refusal ends the run (R76: the mark stays set for the run). -/
def andThen {α β : Type} (o : Host.Outcome α Fault Refusal) (f : α → Host.Outcome β Fault Refusal) :
    Host.Outcome β Fault Refusal :=
  match o with
  | .next t => f t
  | .fault r => .fault r
  | .refused r => .refused r

/-- One step of a block whose commands mean `execute`. With no command presented the block does nothing and keeps all its state
(R62, `60_exceptions.md` R190). A reserved word is refused (`30_encoding.md` R76). Otherwise the pending updates are applied,
oldest first, and then the command runs to completion (R57, R58 a, `60_exceptions.md` R184; log entries 1 and 2). -/
def stepBy (execute : Instr → State → Host.Outcome State Fault Refusal) (s : State) : Host.Outcome State Fault Refusal :=
  match s.commands with
  | [] => .next s
  | w :: rest =>
    match decodeWord w with
    | .ok i => execute i (drainPending (takeCommand rest s))
    | .error _ => .refused (refusalOf w)

/-- `k` steps of a block, stopping at a refusal. A run ends when the command list is exhausted (`60_exceptions.md` R186); steps
after that keep the state. -/
def runBy (oneStep : State → Host.Outcome State Fault Refusal) : Nat → State → Host.Outcome State Fault Refusal
  | 0, s => .next s
  | k + 1, s => andThen (oneStep s) (fun t => runBy oneStep k t)

/-- `s` with a word at the head of the command port, where `step` takes its next command. -/
def presentWord (w : Word) (s : State) : State := { s with commands := w :: s.commands }

end Sys2Proof.Machine
end

