-- ==== Sys2Proof/Machine/Step.lean ====
section
/-! DEFINITION. One step: one command, taken from the command port and run to completion (`20_memory.md` R57). -/

namespace Sys2Proof.Machine

/-- One step of the block with the reference parameters (log entry 4); `stepIn` is the same over any parameters. -/
def step (s : State) : Host.Outcome State Fault Refusal := stepBy exec s

/-- `k` steps of it (`Host.Core.run` for this machine). -/
def run (k : Nat) (s : State) : Host.Outcome State Fault Refusal := runBy step k s

/-- `s` with the table's word `w` as the next command (log entry 19). -/
def State.withFetchWord (s : State) (nbits w : Nat) : State := presentWord (tableWord nbits w) s

end Sys2Proof.Machine
end

