-- ==== Sys2Proof/Machine/Configured.lean ====
section
/-! DEFINITION. The block over any parameters (`00_scope.md` R9: each is a field of the configuration, not a constant of the step):
its commands, its step, its runs, and starting it. `exec`, `step`, `run` and `Sys2Proof.core`, whose types the host fixes, are the
instance at `reference` (log entry 4). -/

namespace Sys2Proof.Machine

/-- What a command does on a block with parameters `cfg`. -/
def execIn (cfg : Config) (i : Instr) (s : State) : Host.Outcome State Fault Refusal :=
  match i with
  | .update v c f => execUpdate v c f s
  | .sample => execSampleIn cfg s
  | .fill => execFillIn cfg s

/-- One step of a block with parameters `cfg`. -/
def stepIn (cfg : Config) (s : State) : Host.Outcome State Fault Refusal := stepBy (execIn cfg) s

/-- `k` steps of it. -/
def runIn (cfg : Config) (k : Nat) (s : State) : Host.Outcome State Fault Refusal := runBy (stepIn cfg) k s

/-- The machine with parameters `cfg`. -/
def machine (cfg : Config) : Host.Core where
  State := State
  Fault := Fault
  Refusal := Refusal
  step := stepIn cfg
  reset := State.reset

/-- A whole run (`60_exceptions.md` R186): the parameters are checked once (`70_reset_and_hazards.md` R203), and then the block
takes the command words of the program from the power-on state until the list is exhausted. -/
def runProgram (cfg : Config) (program : List Word) : Host.Outcome State Fault Refusal :=
  andThen (powerOn cfg) (fun s => runIn cfg program.length { s with commands := program })

end Sys2Proof.Machine
end

