-- ==== Sys2Proof/Machine/Channels.lean ====
section
/-! DEFINITION. Several channels: copies of the state over one table, with no rule that reads one copy and writes another
(`00_scope.md` R7, `20_memory.md` R63, `60_exceptions.md` R189; log entry 20). -/

namespace Sys2Proof.Machine

/-- `n` independent channels. -/
abbrev Channels (n : Nat) := Vector State n

/-- One step of one channel; the others keep their state. All channels have the same parameters. -/
def stepChannel (cfg : Config) {n : Nat} (i : Fin n) (v : Channels n) : Host.Outcome (Channels n) Fault Refusal :=
  andThen (stepIn cfg v[i]) (fun t => .next (v.set i t))

/-- A schedule of steps, one channel at a time, stopping at the first refusal. -/
def runSchedule (cfg : Config) {n : Nat} : List (Fin n) → Channels n → Host.Outcome (Channels n) Fault Refusal
  | [], v => .next v
  | i :: sched, v => andThen (stepChannel cfg i v) (fun v' => runSchedule cfg sched v')

end Sys2Proof.Machine
end

