-- ==== Sys2Proof/Machine/Render.lean ====
section
/-! DEFINITION. What an output code stands for: the exact rational, the floating-point number of a given format, and the instant
of audio, and its place in byte memory (`30_encoding.md` R83 to R85, `20_memory.md` R54, `70_reset_and_hazards.md` R210). No command reads any of it. -/

namespace Sys2Proof.Machine

/-- The value of a sample, `n/30` (R83). -/
def sampleValue (n : SampleCode) : Rat := (n.toNat : Rat) / (VOL_DEN : Rat)

/-- The instant of output sample number `n`, in seconds (R210). -/
def sampleInstant (cfg : Config) (n : Nat) : Rat := (n : Rat) / (cfg.fOut : Rat)

/-- The instant of base tick `k`, in seconds (R210). -/
def tickInstant (cfg : Config) (k : Nat) : Rat := (k : Rat) / (cfg.fNative : Rat)

/-- A number of an IEEE 754 binary format by its three fields. -/
structure FloatBits where
  negative : Bool
  biasedExp : Nat
  fraction : Nat
deriving DecidableEq, Repr

/-- `+0`. -/
def FloatBits.zero : FloatBits := ⟨false, 0, 0⟩

/-- The exponent bias of a format. -/
def expBias (fmt : FloatFmt) : Nat := 2 ^ (fmt.expBits - 1) - 1

/-- `num / den` rounded to an integer, to nearest, ties to even (R84). -/
def roundHalfEven (num den : Nat) : Nat :=
  if 2 * (num % den) < den then num / den
  else if den < 2 * (num % den) then num / den + 1
  else num / den + num / den % 2

/-- For `0 < num ≤ den`, the `k` with `2^-k ≤ num / den < 2^(1-k)`. -/
def binaryScale (num den : Nat) : Nat :=
  if den ≤ num * 2 ^ (den.log2 - num.log2) then den.log2 - num.log2 else den.log2 - num.log2 + 1

/-- `RN(num / den)` for `0 < num < den` in the normal range of the format: the significand rounded to nearest, ties to even, a
carry out of it going into the exponent (R84). -/
def roundQuotient (fmt : FloatFmt) (num den : Nat) : FloatBits :=
  let k := binaryScale num den
  let m := roundHalfEven (num * 2 ^ (k + fmt.fracBits)) den
  if m < 2 ^ (fmt.fracBits + 1) then ⟨false, expBias fmt - k, m - 2 ^ fmt.fracBits⟩ else ⟨false, expBias fmt - k + 1, 0⟩

/-- The quotient `q = RN(volume / 30)` (R84). -/
def renderVolume (fmt : FloatFmt) (volume : Nat) : FloatBits :=
  if volume = 0 then .zero else roundQuotient fmt volume VOL_DEN

/-- The rendering of a sample: the quotient first, then its product with the level, which is exact (R84). -/
def render (fmt : FloatFmt) (lvl : Bool) (volume : Fin 16) : FloatBits :=
  if lvl then renderVolume fmt volume else .zero

/-- The rendering applied to a numerator code (R84). -/
def renderCode (fmt : FloatFmt) (n : SampleCode) : FloatBits := renderVolume fmt n.toNat

/-- The bit pattern: sign, exponent, fraction. -/
def FloatBits.pattern (fmt : FloatFmt) (b : FloatBits) : Nat :=
  (if b.negative then 2 ^ (fmt.expBits + fmt.fracBits) else 0) + b.biasedExp * 2 ^ fmt.fracBits + b.fraction

/-- The numerator of a normal number's magnitude over the denominator `2^(bias + fracBits)`. -/
def FloatBits.magnitude (fmt : FloatFmt) (b : FloatBits) : Nat := (2 ^ fmt.fracBits + b.fraction) * 2 ^ b.biasedExp

/-- A normal number: neither zero, subnormal, infinity nor NaN. -/
def FloatBits.isNormal (fmt : FloatFmt) (b : FloatBits) : Bool :=
  decide (0 < b.biasedExp) && decide (b.biasedExp < 2 ^ fmt.expBits - 1) && decide (b.fraction < 2 ^ fmt.fracBits)

/-- The bytes that hold a number of a format: sign, exponent and fraction, in whole bytes (log entry 15). -/
def byteCount (fmt : FloatFmt) : Nat := (1 + fmt.expBits + fmt.fracBits + 7) / 8

/-- A number of a format in byte memory, little-endian (`20_memory.md` R54). -/
def FloatBits.bytes (fmt : FloatFmt) (b : FloatBits) : List Byte := leBytes (byteCount fmt) (b.pattern fmt)

/-- A sample's rendering in byte memory (R84, `20_memory.md` R54). -/
def sampleBytes (fmt : FloatFmt) (n : SampleCode) : List Byte := (renderCode fmt n).bytes fmt

/-- The block a `FILL` hands to the collaborator, rendered: the last `BLOCK` samples of the output stream (R84, R155). -/
def renderedBlock (cfg : Config) (s : State) : List FloatBits :=
  (s.out.drop (s.out.length - cfg.block)).map (renderCode cfg.floatFmt)

/-- That block in byte memory, destination index 0 at the lowest address (R52, R54). -/
def renderedBlockBytes (cfg : Config) (s : State) : List Byte :=
  ((renderedBlock cfg s).map (FloatBits.bytes cfg.floatFmt)).flatten

end Sys2Proof.Machine
end

