-- ==== Sys2Proof/Safety.lean ====
section
/-! DEFINITION. What the laws are stated in terms of: the invariant of the channel, runs that end in no refusal, and what an
instruction leaves alone. -/

namespace Sys2Proof.Machine

/-- The four invariants of the sequencer (`41_tone_sequencer.md` R126); nothing is said of the accumulator, so they also hold
between the ticks inside a SAMPLE. -/
structure SeqInv (cfg : Config) (s : State) : Prop where
  /-- `0 <= g.tick < P(control, frequencyDivider)` (R26). -/
  tick_lt : s.tickCounter < period cfg s.control s.frequencyDivider
  /-- `0 <= g.idx < len_c` (R27): the index never rests on the sentinel. -/
  idx_lt : s.sequenceIndex < seqLen cfg s.control
  /-- `0 <= g.step < SEQ(control, g.idx)` (R28). -/
  step_lt : (s.stepCounter : Int) < seqAt cfg s.control s.sequenceIndex
  /-- The level is the parity of the index (R31). -/
  level_eq : s.currentLevel = levelOf s.sequenceIndex

/-- The invariant of a channel at a command boundary (`10_state.md` R26 to R31, `41_tone_sequencer.md` R126,
`42_rate_converter.md` R153). The registers are in range by their types (R24). -/
structure Inv (cfg : Config) (s : State) : Prop extends SeqInv cfg s where
  /-- `0 <= g.acc < F_OUT` (R29, R153). -/
  acc_lt : s.rateAccumulator < cfg.fOut
  /-- The accumulator is a multiple of `gcd(F_OUT, F_NATIVE)` (R29, R153). -/
  acc_dvd : rateGcd cfg ∣ s.rateAccumulator

/-- The same three registers. -/
def SameRegisters (s t : State) : Prop :=
  t.volume = s.volume ∧ t.control = s.control ∧ t.frequencyDivider = s.frequencyDivider

/-- The same four fields that TICK and ADVANCE write, the sequencer's phase. -/
def SamePhase (s t : State) : Prop :=
  t.tickCounter = s.tickCounter ∧ t.sequenceIndex = s.sequenceIndex ∧ t.stepCounter = s.stepCounter ∧
    t.currentLevel = s.currentLevel

/-- The same inputs: pending updates and command words. -/
def SameInputs (s t : State) : Prop := t.pend = s.pend ∧ t.commands = s.commands

/-- Every word presented is a command, none is reserved. -/
def AllLegal (s : State) : Prop := ∀ w ∈ s.commands, ∃ i, decodeWord w = .ok i

/-- The state an update leaves, seen as the start of a run: every GeneratorState field at its reset value (`10_state.md` R36). -/
def FreshPhase (s : State) : Prop :=
  s.tickCounter = 0 ∧ s.sequenceIndex = 0 ∧ s.stepCounter = 0 ∧ s.currentLevel = true ∧ s.rateAccumulator = 0

/-- `K(n) = ceil(n * F_NATIVE / F_OUT)`, the base ticks `n` samples need after a reset (`42_rate_converter.md` R156). -/
def ticksForSamples (cfg : Config) (n : Nat) : Nat := (n * cfg.fNative + cfg.fOut - 1) / cfg.fOut

/-- `floor(k * F_OUT / F_NATIVE)`, the samples the reference stream has emitted by the end of base tick `k` (R156, R158). -/
def samplesByTick (cfg : Config) (k : Nat) : Nat := k * cfg.fOut / cfg.fNative

/-- The samples one command word asks for: none for an update or a reserved word, one for `SAMPLE`, `BLOCK` for `FILL`. -/
def samplesOfWord (cfg : Config) (w : Word) : Nat :=
  match decodeWord w with
  | .ok (.update _ _ _) => 0
  | .ok .sample => 1
  | .ok .fill => cfg.block
  | .error _ => 0

end Sys2Proof.Machine
end

