-- ==== Sys2Proof/Certificates/Slice0/Obligations.lean ====
section
/-! DEFINITION. The statements for the provers, file by file of the spec. A statement that rests on a value or a behaviour the spec
marks as derived or decided says so in its docstring. -/

open Sys2Proof Sys2Proof.Machine

/-! ## Encodings -/

/-- Decode and encode agree, on words and on bytes, for every command with every operand the encoding admits
(`30_encoding.md` section 1; the layout is the spec's own choice, D2, D3, D12). -/
def Obligations.DecodeOfEncodeIsTheCommand : Prop :=
  ∀ (i : Instr) (rest : List Byte), i.wellFormed = true →
    decodeWord (encode i) = .ok i ∧ decodeBytes (encodeBytes i ++ rest) = .ok (i, rest)

/-- Every word means at most one command: a decoded command is well formed and encodes to the word it was read from. -/
def Obligations.EncodeOfDecodeIsTheWord : Prop :=
  ∀ (w : Word) (i : Instr), decodeWord w = .ok i → i.wellFormed = true ∧ encode i = w

/-- R75 whole: the four verdicts, each under its condition on `W`; the three patterns pairwise disjoint; and the rows of
`opcode_table.json` with the same match and mask. (The layout the rule states is the spec's own choice, D2.) -/
def Obligations.OpcodeMapGivesFourVerdicts : Prop :=
  ∀ w : Word,
    (w.extractLsb' 24 8 = 0x10#8 → decodeWord w =
      .ok (.update (w.extractLsb' 16 8).toInt (w.extractLsb' 8 8).toInt (w.extractLsb' 0 8).toInt)) ∧
    (w = 0x20000000#32 → decodeWord w = .ok .sample) ∧
    (w = 0x30000000#32 → decodeWord w = .ok .fill) ∧
    (w.extractLsb' 24 8 ≠ 0x10#8 → w ≠ 0x20000000#32 → w ≠ 0x30000000#32 → decodeWord w = .error (.reservedCommand w)) ∧
    (∀ r ∈ opcodeRows, ∀ r' ∈ opcodeRows, r.matchesWord w = true → r'.matchesWord w = true → r = r') ∧
    (∀ i : Instr, (∃ j, decodeWord w = .ok j ∧ opcodeRow j = opcodeRow i) ↔ (opcodeRow i).matchesWord w = true)

/-- The words of the spec's table of worked encodings, and the values its notes say are stored. -/
def Obligations.WorkedEncodingsDecode : Prop :=
  decodeWord 0x100F0000#32 = .ok (.update 15 0 0) ∧ decodeWord 0x10000000#32 = .ok (.update 0 0 0) ∧
  decodeWord 0x100A0401#32 = .ok (.update 10 4 1) ∧ decodeWord 0x10070C00#32 = .ok (.update 7 12 0) ∧
  decodeWord 0x100F0F1F#32 = .ok (.update 15 15 31) ∧ decodeWord 0x10FB637F#32 = .ok (.update (-5) 99 127) ∧
  decodeWord 0x10101020#32 = .ok (.update 16 16 32) ∧ decodeWord 0x1080FFFF#32 = .ok (.update (-128) (-1) (-1)) ∧
  decodeWord 0x20000000#32 = .ok .sample ∧ decodeWord 0x30000000#32 = .ok .fill ∧
  decodeWord 0x00000000#32 = .error (.reservedCommand 0x00000000#32) ∧
  decodeWord 0x11000000#32 = .error (.reservedCommand 0x11000000#32) ∧
  decodeWord 0x20000001#32 = .error (.reservedCommand 0x20000001#32) ∧
  decodeWord 0x40000000#32 = .error (.reservedCommand 0x40000000#32) ∧
  decodeWord 0xFFFFFFFF#32 = .error (.reservedCommand 0xFFFFFFFF#32) ∧
  clampOperands (-5) 99 127 = ⟨0, 15, 31⟩ ∧ clampOperands 16 16 32 = ⟨15, 15, 31⟩ ∧
  clampOperands (-128) (-1) (-1) = ⟨0, 0, 0⟩

/-- A well-formed table entry is read back from its stored form, and whatever is read from a stored form is well formed: an empty
sequence, a run length below 1, a missing sentinel, anything after the sentinel and a divisor below 1 are refused. -/
def Obligations.StoredTableEntriesReadBack : Prop :=
  (∀ e : TableEntry, e.Wf → TableEntry.ofStored e.stored (e.div : Int) = some e) ∧
  (∀ (l : List Int) (d : Int) (e : TableEntry), TableEntry.ofStored l d = some e → e.Wf ∧ e.stored = l ∧ (e.div : Int) = d)

/-! ## The step -/

/-- A step runs the decoded command: the word is taken off the port, the pending updates are applied, the command runs (R57;
with a pending queue, `20_memory.md` section 3, log entry 2). -/
def Obligations.StepRunsTheDecodedCommand : Prop :=
  ∀ (s : State) (w : Word) (rest : List Word) (i : Instr), s.commands = w :: rest → decodeWord w = .ok i →
    step s = exec i (drainPending { s with commands := rest })

/-- With no command presented the block does nothing and keeps all its state, pending updates included (log entry 1). -/
def Obligations.StepWithoutCommandKeepsState : Prop :=
  ∀ s : State, s.commands = [] → step s = .next s

/-- The outcomes of a step: a next state for every legal command, always, and the refusal of a reserved word (the spec's own choice
D14, log entry 16), nothing else. -/
def Obligations.StepRefusesReservedWordsOnly : Prop :=
  ∀ s : State,
    ((∃ t, step s = .next t) ↔ ∀ w rest, s.commands = w :: rest → ∃ i, decodeWord w = .ok i) ∧
    (∀ w rest e, s.commands = w :: rest → decodeWord w = .error e → step s = .refused (.reservedCommand w)) ∧
    (∀ r, step s = .refused r → ∃ w rest, s.commands = w :: rest ∧ r = .reservedCommand w ∧
      decodeWord w = .error (.reservedCommand w))

/-- A stream of legal words runs to its end: after `k` steps `k` words are taken, nothing hangs, nothing is refused. -/
def Obligations.LegalStreamRunsToItsEnd : Prop :=
  ∀ (s : State) (k : Nat), AllLegal s → ∃ t, run k s = .next t ∧ t.commands = s.commands.drop k

/-- What a step takes and what it emits: one word, all pending updates, and 0, 1 or 128 samples appended to an output stream that
is otherwise as before (the output space is append-only). That a step which takes an UPDATE word drains the pending updates too is
the model's choice (log entry 2). -/
def Obligations.StepTakesOneWordAndAppends : Prop :=
  ∀ (s t : State) (w : Word) (rest : List Word) (i : Instr), s.commands = w :: rest → decodeWord w = .ok i →
    step s = .next t → t.commands = rest ∧ t.pend = [] ∧ ∃ new, t.out = s.out ++ new ∧
      new.length = (match i with | .update _ _ _ => 0 | .sample => 1 | .fill => 128)

/-! ## UPDATE -/

/-- R15 and R100: clamping saturates, is idempotent, and each field is clamped on its own. -/
def Obligations.ClampSaturatesEachField : Prop :=
  (∀ v lo hi : Int, lo ≤ hi →
    (v < lo → clamp v lo hi = lo) ∧ (hi < v → clamp v lo hi = hi) ∧ (lo ≤ v → v ≤ hi → clamp v lo hi = v) ∧
      clamp (clamp v lo hi) lo hi = clamp v lo hi) ∧
  (∀ v c f : Int, ((clampOperands v c f).v.val : Int) = clamp v 0 15 ∧ ((clampOperands v c f).c.val : Int) = clamp c 0 15 ∧
    ((clampOperands v c f).f.val : Int) = clamp f 0 31)

/-- R101 whole: UPDATE completes from every state, with every operand; it writes all three registers with the clamped operands and
all five GeneratorState fields with their reset values, emits no sample and touches nothing else. -/
def Obligations.UpdateResetsAndStores : Prop :=
  ∀ (v c f : Int) (s : State), ∃ t, exec (.update v c f) s = .next t ∧
    (t.volume.val : Int) = clamp v 0 15 ∧ (t.control.val : Int) = clamp c 0 15 ∧
    (t.frequencyDivider.val : Int) = clamp f 0 31 ∧
    t.tickCounter = 0 ∧ t.sequenceIndex = 0 ∧ t.stepCounter = 0 ∧ t.currentLevel = true ∧ t.rateAccumulator = 0 ∧
    t.out = s.out ∧ t.pend = s.pend ∧ t.commands = s.commands

/-- An update replaces whatever an earlier update did, so applying one twice is applying it once; operands that clamp alike act
alike; and from any two states with the same inputs and the same output so far it leaves the same state, whatever their registers
and generators held (`40_register_update.md` section 2, laws a, b and d). -/
def Obligations.UpdateForgetsEarlierUpdates : Prop :=
  (∀ (v c f v' c' f' : Int) (s t : State), exec (.update v c f) s = .next t →
    exec (.update v' c' f') t = exec (.update v' c' f') s) ∧
  (∀ (v c f v' c' f' : Int) (s : State), clampOperands v c f = clampOperands v' c' f' →
    exec (.update v c f) s = exec (.update v' c' f') s) ∧
  (∀ (v c f : Int) (s s' : State), SameInputs s s' → s'.out = s.out → exec (.update v c f) s = exec (.update v c f) s')

/-- Because the clamp saturates, every integer operand has the same effect as some encodable one (`30_encoding.md` section 2). -/
def Obligations.EveryUpdateHasAnEncodableTwin : Prop :=
  ∀ v c f : Int, ∃ v' c' f' : Int, (Instr.update v' c' f').wellFormed = true ∧
    ∀ s : State, exec (.update v c f) s = exec (.update v' c' f') s

/-- After an update the samples depend on the update alone: whatever ran before, the same `n` samples follow (the idempotence and
reset-on-update properties, S4 and S6 of `95_test_vectors.md` part 1). -/
def Obligations.SamplesAfterUpdateForgetThePast : Prop :=
  ∀ (cfg : Config) (v c f : Int) (n : Nat), ∃ new : List SampleCode, new.length = n ∧
    ∀ s : State, (samples cfg n (applyUpdate v c f s)).out = s.out ++ new

/-- The power-on state is the state after `UPDATE 0, 0, 0`. The register values are the spec's own decision D7 (log entry 10). -/
def Obligations.PowerOnIsUpdateOfZeros : Prop :=
  ∀ s : State, s.pend = [] → s.commands = [] → s.out = [] → exec (.update 0 0 0) s = .next State.reset

/-! ## Pending updates -/

/-- Draining the pending queue empties it; with one or more updates pending the channel is left as the newest one leaves it,
whatever the state before; with none pending nothing changes (`20_memory.md` section 3, items b and c; oldest first is the spec's
own choice D13). -/
def Obligations.DrainingLeavesTheNewestUpdate : Prop :=
  (∀ s : State, s.pend = [] → drainPending s = s) ∧
  (∀ (s : State) (us : List UpdateRecord) (u : UpdateRecord), s.pend = us ++ [u] →
    exec (.update u.volume u.control u.frequencyDivider) { s with pend := [] } = .next (drainPending s))

/-- Pending updates act as the same updates issued as commands in delivery order: each is applied exactly once, before the next
command starts (R34, R58; D13, log entry 2). -/
def Obligations.PendingUpdatesActAsCommands : Prop :=
  ∀ (s : State) (w : Word) (rest : List Word),
    (∀ u ∈ s.pend, (Instr.update u.volume u.control u.frequencyDivider).wellFormed = true) →
    s.commands = w :: rest → (∃ i, decodeWord w = .ok i) →
    run (s.pend.length + 1)
        { s with pend := [], commands := s.pend.map (fun u => encode (.update u.volume u.control u.frequencyDivider)) ++ w :: rest } =
      run 1 s

/-- An update delivered while a synthesis command runs waits: the command ends as without it, the update still pending. -/
def Obligations.UpdateDeliveredDuringSynthesisWaits : Prop :=
  ∀ (u : UpdateRecord) (s t : State),
    (exec .sample s = .next t → exec .sample (deliver u s) = .next (deliver u t)) ∧
    (exec .fill s = .next t → exec .fill (deliver u s) = .next (deliver u t))

/-- An update record with a field that is no integer is refused by name, never rounded; one with three integers is delivered
as it stands (`30_encoding.md` section 2; U10, log entry 18). -/
def Obligations.NonIntegerFieldsAreRefused : Prop :=
  (∀ (v c f : Rat) (s : State), (v.den ≠ 1 ∨ c.den ≠ 1 ∨ f.den ≠ 1) → deliverRational v c f s = .refused .nonIntegerField) ∧
  (∀ (v c f : Int) (s : State), deliverRational (v : Rat) (c : Rat) (f : Rat) s = .next (deliver ⟨v, c, f⟩ s))

/-! ## LOOKUP, TICK and ADVANCE -/

/-- R121: a non-empty sequence, exactly one sentinel, at `len_c`, and a divisor of at least 1. -/
def Obligations.LookupGivesTerminatedSequence : Prop :=
  ∀ (cfg : Config) (s : State), cfg.Wf →
    1 ≤ (lookup cfg s).seq 0 ∧
    (∀ i ≤ seqLen cfg s.control, (lookup cfg s).seq i = SENTINEL ↔ i = seqLen cfg s.control) ∧
    (∀ i < seqLen cfg s.control, 1 ≤ (lookup cfg s).seq i) ∧ 1 ≤ (lookup cfg s).div

/-- The derived period is at least 1 for every register setting, and at most 96 when the divisor is at most 3
(`00_scope.md` section 4, a derived bound). -/
def Obligations.PeriodIsPositiveAndBounded : Prop :=
  ∀ (cfg : Config) (c : Fin 16) (f : Fin 32), cfg.Wf →
    1 ≤ period cfg c f ∧ (divAt cfg c ≤ 3 → period cfg c f ≤ 96)

/-- A TICK that does not reach `P = div * (frequencyDivider + 1)` changes the tick counter only, so the level is held (R125); the
one that reaches it restarts the counter and runs ADVANCE. The comparison is equality (D21, log entry 14). -/
def Obligations.TickCountsToThePeriod : Prop :=
  ∀ (cfg : Config) (s : State),
    (s.tickCounter + 1 ≠ (cfg.table s.control).div * (s.frequencyDivider.val + 1) →
      tick cfg s = { s with tickCounter := s.tickCounter + 1 }) ∧
    (s.tickCounter + 1 = (cfg.table s.control).div * (s.frequencyDivider.val + 1) →
      tick cfg s = advance cfg { s with tickCounter := 0 })

/-- R123's four cases, each with the whole state after it: step b fires or not, step c finds the sentinel or not; step d in every
case. Nothing but the index, the step counter and the level is written. -/
def Obligations.AdvanceWalksTheSequence : Prop :=
  ∀ (cfg : Config) (s : State),
    let seq := fun i => seqAt cfg s.control i
    (((s.stepCounter : Int) + 1 ≠ seq s.sequenceIndex → seq s.sequenceIndex ≠ SENTINEL →
      advance cfg s = { s with stepCounter := s.stepCounter + 1, currentLevel := decide (s.sequenceIndex % 2 = 0) }) ∧
    ((s.stepCounter : Int) + 1 = seq s.sequenceIndex → seq (s.sequenceIndex + 1) ≠ SENTINEL →
      advance cfg s = { s with
        stepCounter := 0, sequenceIndex := s.sequenceIndex + 1, currentLevel := decide ((s.sequenceIndex + 1) % 2 = 0) }) ∧
    ((s.stepCounter : Int) + 1 = seq s.sequenceIndex → seq (s.sequenceIndex + 1) = SENTINEL →
      advance cfg s = { s with stepCounter := 0, sequenceIndex := 0, currentLevel := true }) ∧
    ((s.stepCounter : Int) + 1 ≠ seq s.sequenceIndex → seq s.sequenceIndex = SENTINEL →
      advance cfg s = { s with stepCounter := s.stepCounter + 1, sequenceIndex := 0, currentLevel := true }))

/-- Every TICK keeps the four sequencer invariants, whatever the accumulator, so also between the TICKs inside a SAMPLE
(`41_tone_sequencer.md` section 4, a derived law). -/
def Obligations.TickKeepsSequencerBounds : Prop :=
  ∀ (cfg : Config) (s : State), cfg.Wf → SeqInv cfg s → SeqInv cfg (tick cfg s)

/-- The closed form of the sequencer after `k` base ticks from a reset (`41_tone_sequencer.md` section 4, a derived law). -/
def Obligations.TicksHaveClosedForm : Prop :=
  ∀ (cfg : Config) (s : State) (k : Nat), cfg.Wf → FreshPhase s →
    let t := ticks cfg k s
    let P := period cfg s.control s.frequencyDivider
    let q := k / P % cycleLength cfg s.control
    t.tickCounter = k % P ∧ t.sequenceIndex < seqLen cfg s.control ∧
    prefixSum cfg s.control t.sequenceIndex ≤ q ∧ q < prefixSum cfg s.control (t.sequenceIndex + 1) ∧
    (∀ i < seqLen cfg s.control, prefixSum cfg s.control i ≤ q → q < prefixSum cfg s.control (i + 1) → i = t.sequenceIndex) ∧
    t.stepCounter = q - prefixSum cfg s.control t.sequenceIndex ∧ t.currentLevel = levelOf t.sequenceIndex ∧
    SameRegisters s t ∧ SameInputs s t ∧ t.out = s.out ∧ t.rateAccumulator = s.rateAccumulator

/-- The level is periodic in the base tick with period `P * S`, and it is 1 for the first `P * seq_c[0]` states after a reset
(`41_tone_sequencer.md` section 4). -/
def Obligations.LevelIsPeriodicFromLevelOne : Prop :=
  ∀ (cfg : Config) (s : State) (k : Nat), cfg.Wf → FreshPhase s →
    let P := period cfg s.control s.frequencyDivider
    (ticks cfg (k + P * cycleLength cfg s.control) s).currentLevel = (ticks cfg k s).currentLevel ∧
    ((k : Int) < P * seqAt cfg s.control 0 → (ticks cfg k s).currentLevel = true)

/-! ## EMIT, SAMPLE and FILL -/

/-- R150 whole: EMIT appends one sample, its numerator code `g.lvl * volume` in 0..15 with nothing lost, its value
`g.lvl * volume / 30` in [0, 1/2]; no register and no GeneratorState field changes. -/
def Obligations.EmitAppendsLevelTimesVolume : Prop :=
  ∀ s : State, ∃ n : SampleCode,
    emitSample s = { s with out := s.out ++ [n] } ∧
    n.toNat = (if s.currentLevel then 1 else 0) * s.volume.val ∧
    sampleValue n = ((if s.currentLevel then 1 else 0 : Rat) * (s.volume.val : Rat)) / 30 ∧
    0 ≤ sampleValue n ∧ sampleValue n ≤ 1 / 2

/-- SAMPLE completes from every state. At the reference rates it runs one TICK if the accumulator is below 31440 and none
otherwise, emits one sample of the level after that, and pays 31440; the whole next state is given. -/
def Obligations.SampleCompletesWithAtMostOneTick : Prop :=
  ∀ s : State,
    let n := fun t : State => BitVec.ofNat 4 ((if t.currentLevel then 1 else 0) * t.volume.val)
    ((s.rateAccumulator < 31440 →
      exec .sample s = .next { tick reference s with
        rateAccumulator := s.rateAccumulator + 48000 - 31440, out := s.out ++ [n (tick reference s)] }) ∧
    (31440 ≤ s.rateAccumulator →
      exec .sample s = .next { s with rateAccumulator := s.rateAccumulator - 31440, out := s.out ++ [n s] }))

/-- R154 at any rates: SAMPLE runs the least number of TICKs that brings the accumulator to `F_NATIVE`, at most
`ceil(F_NATIVE / F_OUT)` of them, then emits one sample and subtracts `F_NATIVE`, which never goes below zero. -/
def Obligations.SampleRunsTheTicksThatAreDue : Prop :=
  ∀ (cfg : Config) (s : State), 1 ≤ cfg.fOut → ∃ k ≤ (cfg.fNative + cfg.fOut - 1) / cfg.fOut,
    cfg.fNative ≤ s.rateAccumulator + k * cfg.fOut ∧ (∀ j < k, s.rateAccumulator + j * cfg.fOut < cfg.fNative) ∧
    sample cfg s = { ticks cfg k s with
      rateAccumulator := s.rateAccumulator + k * cfg.fOut - cfg.fNative,
      out := s.out ++ [BitVec.ofNat 4 (levelValue (ticks cfg k s).currentLevel * s.volume.val)] }

/-- Inside SAMPLE the accumulator stays below `F_NATIVE + F_OUT`, and reaches `F_NATIVE` before the sample is emitted
(`42_rate_converter.md` section 2, derived bounds). -/
def Obligations.AccumulatorStaysBelowSumOfRates : Prop :=
  ∀ (cfg : Config) (s : State) (fuel : Nat), cfg.Wf → Inv cfg s →
    (tickWhileDue cfg fuel s).rateAccumulator ≤ cfg.fNative + cfg.fOut - 1 ∧
    cfg.fNative ≤ (tickWhileDue cfg (ticksDue cfg s.rateAccumulator) s).rateAccumulator ∧
    (sample cfg s).rateAccumulator < cfg.fOut

/-- FILL completes from every state and is `BLOCK` = 128 SAMPLEs one after the other. -/
def Obligations.FillCompletesAsSamples : Prop :=
  ∀ s : State, ∃ f : Nat → State, f 0 = s ∧ (∀ j < 128, exec .sample (f j) = .next (f (j + 1))) ∧ exec .fill s = .next (f 128)

/-- One `FILL` word and 128 `SAMPLE` words in a row end in the same state with the same output (`42_rate_converter.md`
section 4). -/
def Obligations.FillWordEqualsSampleWords : Prop :=
  ∀ (s : State) (rest : List Word),
    run 1 { s with commands := encode .fill :: rest } =
      run 128 { s with commands := List.replicate 128 (encode .sample) ++ rest }

/-- The frame of the two synthesis commands: both complete from every state, change no register, no pending update and no command
word, and append 1 and 128 samples to the output stream, each either 0 or the volume, so each in [0, 1/2]. -/
def Obligations.SynthesisFrame : Prop :=
  ∀ (i : Instr) (s : State), i = .sample ∨ i = .fill → ∃ t, exec i s = .next t ∧ SameRegisters s t ∧ SameInputs s t ∧
    ∃ new, t.out = s.out ++ new ∧ new.length = (if i = .fill then 128 else 1) ∧
      ∀ n ∈ new, (n = 0 ∨ n.toNat = s.volume.val) ∧ 0 ≤ sampleValue n ∧ sampleValue n ≤ 1 / 2

/-- No command other than UPDATE writes a register or resets a field: with no update pending, a step whose command is SAMPLE or
FILL keeps the registers, moves the sequencer's phase on by whole TICKs from where the previous command left it, and accounts for
every TICK and every sample in the accumulator (`10_state.md` sections 1 and 6). -/
def Obligations.OnlyUpdateWritesRegisters : Prop :=
  ∀ (s t : State), step s = .next t → s.pend = [] →
    (∀ w rest v c f, s.commands = w :: rest → decodeWord w ≠ .ok (.update v c f)) →
    SameRegisters s t ∧ ∃ k n : Nat, SamePhase (ticks reference k s) t ∧
      t.rateAccumulator + n * reference.fNative = s.rateAccumulator + k * reference.fOut ∧
      t.out.length = s.out.length + n

/-- The silence law: with `volume = 0` every sample is 0, for any number of samples and any parameters, while the counters and the
accumulator run as at any other volume. -/
def Obligations.VolumeZeroIsSilent : Prop :=
  ∀ (cfg : Config) (s : State) (n : Nat), s.volume = 0 →
    (samples cfg n s).out = s.out ++ List.replicate n 0#4 ∧
    ∀ v : Fin 16, samples cfg n { s with volume := v } =
      { samples cfg n s with volume := v, out := (samples cfg n { s with volume := v }).out }

/-- Control 0 never leaves level 1: after `UPDATE v, 0, f` every sample is the clamped volume, whatever the open table entries
are. It rests on the printed literal `[1,-1]` (conflict C1, log entry 5). -/
def Obligations.ControlZeroHoldsLevelOne : Prop :=
  ∀ (v f : Int) (n : Nat) (s : State), ∃ t, exec (.update v 0 f) s = .next t ∧
    (samples reference n t).out = s.out ++ List.replicate n (BitVec.ofInt 4 (clamp v 0 15))

/-- R157: splitting a run of samples changes neither the samples nor the end state, and two blocks are one block of twice the
size. -/
def Obligations.BlockSplittingChangesNothing : Prop :=
  ∀ (cfg : Config) (m n : Nat) (s : State),
    samples cfg (m + n) s = samples cfg n (samples cfg m s) ∧
    fill { cfg with block := 2 * cfg.block } s = fill cfg (fill cfg s)

/-- The counting law in full: after `n` samples from a reset, `K(n) = ceil(n * F_NATIVE / F_OUT)` ticks have run, the accumulator
is `K(n) * F_OUT - n * F_NATIVE`, and sample number `j` carries the level after `K(j)` ticks (`42_rate_converter.md` section 5, a
derived law). -/
def Obligations.CountingLawOfSamples : Prop :=
  ∀ (cfg : Config) (s : State) (n : Nat), cfg.Wf → FreshPhase s →
    n * cfg.fNative ≤ ticksForSamples cfg n * cfg.fOut ∧
    samples cfg n s = { ticks cfg (ticksForSamples cfg n) s with
      rateAccumulator := ticksForSamples cfg n * cfg.fOut - n * cfg.fNative,
      out := s.out ++ (List.range n).map (fun j => sampleNumerator (ticks cfg (ticksForSamples cfg (j + 1)) s)) }

/-- The rate law: the reference stream has emitted `floor(k * F_OUT / F_NATIVE)` samples by the end of base tick `k`, within one
sample of the exact ratio (`42_rate_converter.md` section 5, a derived law). -/
def Obligations.StreamEmitsAtTheRatioOfRates : Prop :=
  ∀ (cfg : Config) (s : State) (k : Nat), cfg.Wf → FreshPhase s →
    ∃ new, (stream cfg k s).out = s.out ++ new ∧ new.length = samplesByTick cfg k ∧
      (stream cfg k s).rateAccumulator = k * cfg.fOut % cfg.fNative ∧
      0 ≤ ((k * cfg.fOut : Nat) : Rat) / (cfg.fNative : Rat) - (new.length : Rat) ∧
      ((k * cfg.fOut : Nat) : Rat) / (cfg.fNative : Rat) - (new.length : Rat) < 1

/-- SAMPLE is the reference stream cut after each EMIT: from any state, the samples still due and then `k` base ticks of the
reference stream are `n` SAMPLEs followed by the ticks, `d` of them, that emit nothing yet (`42_rate_converter.md` sections 1 and 3,
conflict C7). -/
def Obligations.SamplesAreTheReferenceStream : Prop :=
  ∀ (cfg : Config) (s : State) (k : Nat), cfg.Wf →
    let n := (s.rateAccumulator + k * cfg.fOut) / cfg.fNative
    ∃ d, (samples cfg n s).rateAccumulator + d * cfg.fOut < cfg.fNative ∧
      stream cfg k (emitWhileDue cfg s) =
        { ticks cfg d (samples cfg n s) with rateAccumulator := (samples cfg n s).rateAccumulator + d * cfg.fOut }

/-- The first transition after a reset: samples 1 to `n0 - 1` carry level 1 and sample `n0` level 0, for a sequence of two or more
run lengths; none at all for one run length (`42_rate_converter.md` section 5, a derived law). The last clause assumes
`F_NATIVE <= F_OUT`, as the reference rates have it (log entry 27): below that a sample can step over the whole first level-0 segment
(`42_rate_converter.md` section 3, corner case c), sample `n0` may carry level 1 again, and where the first level-0 sample then falls
is left out. -/
def Obligations.FirstTransitionComesAtSampleN0 : Prop :=
  ∀ (cfg : Config) (s : State) (r0 : Nat), cfg.Wf → FreshPhase s → seqAt cfg s.control 0 = (r0 : Int) →
    let n0 := (period cfg s.control s.frequencyDivider * r0 - 1) * cfg.fOut / cfg.fNative + 1
    let one := BitVec.ofNat 4 s.volume.val
    (seqLen cfg s.control = 1 → ∀ n, (samples cfg n s).out = s.out ++ List.replicate n one) ∧
    (∀ n < n0, (samples cfg n s).out = s.out ++ List.replicate n one) ∧
    (2 ≤ seqLen cfg s.control → cfg.fNative ≤ cfg.fOut →
      (samples cfg n0 s).out = s.out ++ List.replicate (n0 - 1) one ++ [0#4])

/-! ## Invariants, configuration, reset -/

/-- The invariant holds at reset, for every well-formed configuration. -/
def Obligations.ResetMeetsTheInvariant : Prop :=
  (∀ cfg : Config, cfg.Wf → Inv cfg State.reset) ∧ Inv reference State.reset

/-- Every step keeps the invariant: the counters inside their bounds, the index never on the sentinel, the level the parity of the
index, the accumulator below 48000 and a multiple of 240, from every state that meets it, with updates pending or not. -/
def Obligations.StepKeepsTheInvariant : Prop :=
  ∀ s t : State, Inv reference s → step s = .next t → Inv reference t

/-- Each command keeps the invariant under every well-formed configuration. -/
def Obligations.CommandsKeepTheInvariantAtAnyRates : Prop :=
  ∀ (cfg : Config) (s : State), cfg.Wf → Inv cfg s →
    (∀ v c f : Int, Inv cfg (applyUpdate v c f s)) ∧ Inv cfg (sample cfg s) ∧ Inv cfg (fill cfg s)

/-- The configuration is checked once: a well-formed one starts in the power-on state, any other is refused; the one this model
runs with is well formed whatever its open entries are (log entries 3, 4 and 21). The check includes the widths of the float format,
which the spec's rules do not name there (log entry 6). -/
def Obligations.ConfigurationIsCheckedAtPowerOn : Prop :=
  (∀ cfg : Config, cfg.Wf → powerOn cfg = .next State.reset) ∧
  (∀ cfg : Config, ¬ cfg.Wf → powerOn cfg = .refused .illFormedConfig) ∧
  powerOn reference = .next State.reset

/-! ## Rendering -/

/-- In every format with at least 4 exponent bits and 1 fraction bit (the check `FloatFmt.Wf`, DEDUCED, log entry 6), over the
presumed IEEE 754 layout and bias (log entry 25): the rendering of every nonzero code is a positive normal number less than half a
unit in the last place from `n/30`; level 0 or volume 0 gives `+0`; and rendering the level and the volume is rendering the emitted
code (`30_encoding.md` section 5). -/
def Obligations.RenderingRoundsToNearest : Prop :=
  ∀ (fmt : FloatFmt), fmt.Wf →
    (∀ n : SampleCode, n ≠ 0 →
      let b := renderCode fmt n
      let exact : Int := n.toNat * 2 ^ (expBias fmt + fmt.fracBits)
      b.negative = false ∧ b.isNormal fmt = true ∧ 2 * (30 * (b.magnitude fmt : Int) - exact) < 30 * 2 ^ b.biasedExp ∧
        2 * (exact - 30 * (b.magnitude fmt : Int)) < 30 * 2 ^ b.biasedExp) ∧
    renderCode fmt 0 = .zero ∧ (∀ v : Fin 16, render fmt false v = .zero) ∧ (∀ l : Bool, render fmt l 0 = .zero) ∧
    (∀ s : State, render fmt s.currentLevel s.volume = renderCode fmt (sampleNumerator s))

/-- The sixteen bit patterns of the spec's table in binary64 and binary32, and rounding the binary64 value to binary32 gives the
binary32 column again. The columns are general knowledge of the spec's author (G2, log entry 25). -/
def Obligations.SampleBitPatternsMatchTheTable : Prop :=
  (List.range 16).map (fun n => (renderCode .binary64 (BitVec.ofNat 4 n)).pattern .binary64) =
    [0x0000000000000000, 0x3FA1111111111111, 0x3FB1111111111111, 0x3FB999999999999A,
     0x3FC1111111111111, 0x3FC5555555555555, 0x3FC999999999999A, 0x3FCDDDDDDDDDDDDE,
     0x3FD1111111111111, 0x3FD3333333333333, 0x3FD5555555555555, 0x3FD7777777777777,
     0x3FD999999999999A, 0x3FDBBBBBBBBBBBBC, 0x3FDDDDDDDDDDDDDE, 0x3FE0000000000000] ∧
  (List.range 16).map (fun n => (renderCode .binary32 (BitVec.ofNat 4 n)).pattern .binary32) =
    [0x00000000, 0x3D088889, 0x3D888889, 0x3DCCCCCD, 0x3E088889, 0x3E2AAAAB, 0x3E4CCCCD, 0x3E6EEEEF,
     0x3E888889, 0x3E99999A, 0x3EAAAAAB, 0x3EBBBBBC, 0x3ECCCCCD, 0x3EDDDDDE, 0x3EEEEEEF, 0x3F000000] ∧
  ∀ n ∈ List.range 15, roundQuotient .binary32 ((renderCode .binary64 (BitVec.ofNat 4 (n + 1))).magnitude .binary64)
      (2 ^ (expBias .binary64 + 52)) = renderCode .binary32 (BitVec.ofNat 4 (n + 1))

/-! ## Channels -/

/-- Channels do not interfere, on any parameters: whatever the interleaving, each channel ends where its own steps alone bring it,
and an interleaving completes exactly when each channel alone completes (`20_memory.md` section 3; that a schedule stops at the first
refusal is the model's choice, log entry 20). -/
def Obligations.ChannelsDoNotInterfere : Prop :=
  ∀ (cfg : Config) (n : Nat) (sched : List (Fin n)) (v : Channels n),
    (∀ v', runSchedule cfg sched v = .next v' → ∀ i : Fin n, runIn cfg (sched.count i) v[i] = .next v'[i]) ∧
    ((∀ i : Fin n, ∃ t, runIn cfg (sched.count i) v[i] = .next t) → ∃ v', runSchedule cfg sched v = .next v')

/-! ## Any parameters -/

/-- The machine of the host's fixed types is the instance at the reference parameters (log entry 4). -/
def Obligations.ReferenceMachineIsOneInstance : Prop :=
  (∀ (i : Instr) (s : State), exec i s = execIn reference i s) ∧ (∀ s : State, step s = stepIn reference s) ∧
  (∀ (k : Nat) (s : State), run k s = runIn reference k s) ∧
  (∀ (cfg : Config) (k : Nat) (s : State), Host.Core.run (machine cfg) k s = runIn cfg k s)

/-- A step of a block with any parameters: it keeps the state with no word presented, refuses a word that is no command, and else
applies the pending updates and runs the decoded command (log entries 1 and 2). That a word outside the opcode map is refused is
`30_encoding.md` section 3, the spec's own choice D14 (log entry 16). -/
def Obligations.StepAtAnyParametersRunsTheDecodedCommand : Prop :=
  ∀ (cfg : Config) (s : State),
    (s.commands = [] → stepIn cfg s = .next s) ∧
    (∀ w rest i, s.commands = w :: rest → decodeWord w = .ok i →
      stepIn cfg s = execIn cfg i (drainPending { s with commands := rest })) ∧
    (∀ w rest e, s.commands = w :: rest → decodeWord w = .error e → stepIn cfg s = .refused (.reservedCommand w))

/-- All three commands complete from every state of a block with any rates of which `F_OUT >= 1`, any block size and any table.
UPDATE applies its update (whose effect UpdateResetsAndStores gives field by field), on these parameters as on the reference ones;
SAMPLE runs the least number of TICKs that brings the accumulator to `F_NATIVE`, emits one sample and pays `F_NATIVE`; FILL is
`BLOCK` SAMPLEs one after the other. -/
def Obligations.CommandsCompleteAtAnyParameters : Prop :=
  ∀ (cfg : Config) (s : State), 1 ≤ cfg.fOut →
    (∀ v c f : Int, execIn cfg (.update v c f) s = .next (applyUpdate v c f s) ∧
      execIn cfg (.update v c f) s = exec (.update v c f) s) ∧
    (∃ k : Nat, cfg.fNative ≤ s.rateAccumulator + k * cfg.fOut ∧ (∀ j < k, s.rateAccumulator + j * cfg.fOut < cfg.fNative) ∧
      execIn cfg .sample s = .next { ticks cfg k s with
        rateAccumulator := s.rateAccumulator + k * cfg.fOut - cfg.fNative,
        out := s.out ++ [BitVec.ofNat 4 (levelValue (ticks cfg k s).currentLevel * s.volume.val)] }) ∧
    (∃ f : Nat → State, f 0 = s ∧ (∀ j < cfg.block, execIn cfg .sample (f j) = .next (f (j + 1))) ∧
      execIn cfg .fill s = .next (f cfg.block))

/-- A whole run. On well-formed parameters a program of commands runs to its end from the power-on state and emits exactly the
samples its words ask for, `BLOCK` of them for each FILL; a program with a reserved word in it is refused, by the first such word
(the spec's own choice D14, log entry 16); on ill-formed parameters nothing runs (log entry 21), and that this check takes in the
widths of the float format is the model's inference (DEDUCED, log entry 6). The power-on state is the spec's own decision D7 (log
entry 10), how a program comes to run is the model's (log entry 19). -/
def Obligations.ProgramRunsFromPowerOn : Prop :=
  ∀ (cfg : Config) (program : List Word),
    (cfg.Wf → (∀ w ∈ program, ∃ i, decodeWord w = .ok i) → ∃ t, runProgram cfg program = .next t ∧
      t.commands = [] ∧ t.pend = [] ∧ t.out.length = (program.map (samplesOfWord cfg)).sum) ∧
    (cfg.Wf → ∀ (before after : List Word) (w : Word), program = before ++ w :: after →
      (∀ u ∈ before, ∃ i, decodeWord u = .ok i) → (∀ i, decodeWord w ≠ .ok i) →
      runProgram cfg program = .refused (.reservedCommand w)) ∧
    (¬ cfg.Wf → runProgram cfg program = .refused .illFormedConfig)

/-- Every step of a block with any well-formed parameters keeps the invariant. -/
def Obligations.StepKeepsTheInvariantAtAnyParameters : Prop :=
  ∀ (cfg : Config) (s t : State), cfg.Wf → Inv cfg s → stepIn cfg s = .next t → Inv cfg t

/-! ## Byte memory -/

/-- Byte order: wherever a command word or a sample's rendering stands in byte memory, byte `i` from the lowest address holds bits
`8i+7 : 8i`, the whole encoding is there and can be read back (`20_memory.md` section 2; the order is the spec's own choice D12, which names
command words, binary32 and binary64). The byte count and the zero padding at the top of a format that does not fill whole bytes are
this model's choice (log entry 15), as are the formats taken (log entry 6) and the presumed float layout (log entry 25). -/
def Obligations.StoredBytesAreLittleEndian : Prop :=
  (∀ w : Word, bytesOfWord w = [w.extractLsb' 0 8, w.extractLsb' 8 8, w.extractLsb' 16 8, w.extractLsb' 24 8] ∧
    natOfLeBytes (bytesOfWord w) = w.toNat) ∧
  (∀ (fmt : FloatFmt) (n : SampleCode), fmt.Wf →
    (sampleBytes fmt n).length = byteCount fmt ∧
    (∀ i < byteCount fmt, (sampleBytes fmt n)[i]? = some (BitVec.ofNat 8 ((renderCode fmt n).pattern fmt / 2 ^ (8 * i)))) ∧
    natOfLeBytes (sampleBytes fmt n) = (renderCode fmt n).pattern fmt) ∧
  sampleBytes .binary32 3 = [0xCD#8, 0xCC#8, 0xCC#8, 0x3D#8] ∧
  sampleBytes .binary64 10 = [0x55#8, 0x55#8, 0x55#8, 0x55#8, 0x55#8, 0x55#8, 0xD5#8, 0x3F#8]
end

