-- ==== Sys2Proof/Laws/Bytes.lean ====
section
/-! SUPPORT. What laying a number out in bytes can do (`20_memory.md` R54). -/

namespace Sys2Proof

@[simp] theorem leBytes_length (k n : Nat) : (leBytes k n).length = k := by
  induction k generalizing n with
  | zero => rfl
  | succ k ih => simp [leBytes, ih]

/-- Byte `i` from the lowest address holds bits `8i+7 : 8i`. -/
theorem leBytes_getElem? (k n i : Nat) (h : i < k) : (leBytes k n)[i]? = some (BitVec.ofNat 8 (n / 2 ^ (8 * i))) := by
  induction k generalizing n i with
  | zero => omega
  | succ k ih =>
    cases i with
    | zero => simp [leBytes]
    | succ i =>
      rw [leBytes, List.getElem?_cons_succ, ih _ _ (by omega), Nat.div_div_eq_div_mul, Nat.mul_succ, Nat.pow_add,
        Nat.mul_comm (2 ^ (8 * i))]

/-- Bytes laid out are read back, as far as they reach. -/
theorem natOfLeBytes_leBytes (k n : Nat) : natOfLeBytes (leBytes k n) = n % 2 ^ (8 * k) := by
  induction k generalizing n with
  | zero => simp [leBytes, natOfLeBytes, Nat.mod_one]
  | succ k ih =>
    rw [leBytes, natOfLeBytes, ih, Nat.mul_succ, Nat.add_comm (8 * k) 8, Nat.pow_add, Nat.mod_mul]
    simp

/-- A word stored and loaded is the word. -/
theorem wordOfBytes_bytesOfWord (w : Word) :
    BitVec.ofNat 32 (natOfLeBytes (bytesOfWord w)) = w := by
  rw [bytesOfWord, natOfLeBytes_leBytes, Nat.mod_eq_of_lt (show w.toNat < 2 ^ (8 * 4) from w.isLt)]
  simp

end Sys2Proof
end

