-- ==== Sys2Proof/Laws/State.lean ====
section
/-! SUPPORT. One lemma per field per update, each true by `rfl`, so that no proof unfolds a record update. -/

namespace Sys2Proof.Machine

/-! ### `setRegisters` -/

@[simp] theorem State.setRegisters_volume (s : State) (r : Clamped) : (s.setRegisters r).volume = r.v := rfl
@[simp] theorem State.setRegisters_control (s : State) (r : Clamped) : (s.setRegisters r).control = r.c := rfl
@[simp] theorem State.setRegisters_frequencyDivider (s : State) (r : Clamped) : (s.setRegisters r).frequencyDivider = r.f := rfl
@[simp] theorem State.setRegisters_tickCounter (s : State) (r : Clamped) : (s.setRegisters r).tickCounter = s.tickCounter := rfl
@[simp] theorem State.setRegisters_sequenceIndex (s : State) (r : Clamped) : (s.setRegisters r).sequenceIndex = s.sequenceIndex := rfl
@[simp] theorem State.setRegisters_stepCounter (s : State) (r : Clamped) : (s.setRegisters r).stepCounter = s.stepCounter := rfl
@[simp] theorem State.setRegisters_currentLevel (s : State) (r : Clamped) : (s.setRegisters r).currentLevel = s.currentLevel := rfl
@[simp] theorem State.setRegisters_rateAccumulator (s : State) (r : Clamped) : (s.setRegisters r).rateAccumulator = s.rateAccumulator := rfl
@[simp] theorem State.setRegisters_pend (s : State) (r : Clamped) : (s.setRegisters r).pend = s.pend := rfl
@[simp] theorem State.setRegisters_commands (s : State) (r : Clamped) : (s.setRegisters r).commands = s.commands := rfl
@[simp] theorem State.setRegisters_out (s : State) (r : Clamped) : (s.setRegisters r).out = s.out := rfl

/-! ### `emit` -/

@[simp] theorem State.emit_volume (s : State) (n : SampleCode) : (s.emit n).volume = s.volume := rfl
@[simp] theorem State.emit_control (s : State) (n : SampleCode) : (s.emit n).control = s.control := rfl
@[simp] theorem State.emit_frequencyDivider (s : State) (n : SampleCode) : (s.emit n).frequencyDivider = s.frequencyDivider := rfl
@[simp] theorem State.emit_tickCounter (s : State) (n : SampleCode) : (s.emit n).tickCounter = s.tickCounter := rfl
@[simp] theorem State.emit_sequenceIndex (s : State) (n : SampleCode) : (s.emit n).sequenceIndex = s.sequenceIndex := rfl
@[simp] theorem State.emit_stepCounter (s : State) (n : SampleCode) : (s.emit n).stepCounter = s.stepCounter := rfl
@[simp] theorem State.emit_currentLevel (s : State) (n : SampleCode) : (s.emit n).currentLevel = s.currentLevel := rfl
@[simp] theorem State.emit_rateAccumulator (s : State) (n : SampleCode) : (s.emit n).rateAccumulator = s.rateAccumulator := rfl
@[simp] theorem State.emit_pend (s : State) (n : SampleCode) : (s.emit n).pend = s.pend := rfl
@[simp] theorem State.emit_commands (s : State) (n : SampleCode) : (s.emit n).commands = s.commands := rfl
@[simp] theorem State.emit_out (s : State) (n : SampleCode) : (s.emit n).out = s.out ++ [n] := rfl

/-! ### `resetGenerator` -/

@[simp] theorem State.resetGenerator_volume (s : State) : (s.resetGenerator).volume = s.volume := rfl
@[simp] theorem State.resetGenerator_control (s : State) : (s.resetGenerator).control = s.control := rfl
@[simp] theorem State.resetGenerator_frequencyDivider (s : State) : (s.resetGenerator).frequencyDivider = s.frequencyDivider := rfl
@[simp] theorem State.resetGenerator_tickCounter (s : State) : (s.resetGenerator).tickCounter = 0 := rfl
@[simp] theorem State.resetGenerator_sequenceIndex (s : State) : (s.resetGenerator).sequenceIndex = 0 := rfl
@[simp] theorem State.resetGenerator_stepCounter (s : State) : (s.resetGenerator).stepCounter = 0 := rfl
@[simp] theorem State.resetGenerator_currentLevel (s : State) : (s.resetGenerator).currentLevel = true := rfl
@[simp] theorem State.resetGenerator_rateAccumulator (s : State) : (s.resetGenerator).rateAccumulator = 0 := rfl
@[simp] theorem State.resetGenerator_pend (s : State) : (s.resetGenerator).pend = s.pend := rfl
@[simp] theorem State.resetGenerator_commands (s : State) : (s.resetGenerator).commands = s.commands := rfl
@[simp] theorem State.resetGenerator_out (s : State) : (s.resetGenerator).out = s.out := rfl

/-! ### `relevel` -/

@[simp] theorem State.relevel_volume (s : State) : (s.relevel).volume = s.volume := rfl
@[simp] theorem State.relevel_control (s : State) : (s.relevel).control = s.control := rfl
@[simp] theorem State.relevel_frequencyDivider (s : State) : (s.relevel).frequencyDivider = s.frequencyDivider := rfl
@[simp] theorem State.relevel_tickCounter (s : State) : (s.relevel).tickCounter = s.tickCounter := rfl
@[simp] theorem State.relevel_sequenceIndex (s : State) : (s.relevel).sequenceIndex = s.sequenceIndex := rfl
@[simp] theorem State.relevel_stepCounter (s : State) : (s.relevel).stepCounter = s.stepCounter := rfl
@[simp] theorem State.relevel_currentLevel (s : State) : (s.relevel).currentLevel = levelOf s.sequenceIndex := rfl
@[simp] theorem State.relevel_rateAccumulator (s : State) : (s.relevel).rateAccumulator = s.rateAccumulator := rfl
@[simp] theorem State.relevel_pend (s : State) : (s.relevel).pend = s.pend := rfl
@[simp] theorem State.relevel_commands (s : State) : (s.relevel).commands = s.commands := rfl
@[simp] theorem State.relevel_out (s : State) : (s.relevel).out = s.out := rfl

/-! ### `applyUpdate` -/

@[simp] theorem applyUpdate_volume (v c f : Int) (s : State) : (applyUpdate v c f s).volume = clampTo 15 v := rfl
@[simp] theorem applyUpdate_control (v c f : Int) (s : State) : (applyUpdate v c f s).control = clampTo 15 c := rfl
@[simp] theorem applyUpdate_frequencyDivider (v c f : Int) (s : State) : (applyUpdate v c f s).frequencyDivider = clampTo 31 f := rfl
@[simp] theorem applyUpdate_tickCounter (v c f : Int) (s : State) : (applyUpdate v c f s).tickCounter = 0 := rfl
@[simp] theorem applyUpdate_sequenceIndex (v c f : Int) (s : State) : (applyUpdate v c f s).sequenceIndex = 0 := rfl
@[simp] theorem applyUpdate_stepCounter (v c f : Int) (s : State) : (applyUpdate v c f s).stepCounter = 0 := rfl
@[simp] theorem applyUpdate_currentLevel (v c f : Int) (s : State) : (applyUpdate v c f s).currentLevel = true := rfl
@[simp] theorem applyUpdate_rateAccumulator (v c f : Int) (s : State) : (applyUpdate v c f s).rateAccumulator = 0 := rfl
@[simp] theorem applyUpdate_pend (v c f : Int) (s : State) : (applyUpdate v c f s).pend = s.pend := rfl
@[simp] theorem applyUpdate_commands (v c f : Int) (s : State) : (applyUpdate v c f s).commands = s.commands := rfl
@[simp] theorem applyUpdate_out (v c f : Int) (s : State) : (applyUpdate v c f s).out = s.out := rfl

/-! ### `issue` -/

@[simp] theorem issue_volume (w : Word) (s : State) : (issue w s).volume = s.volume := rfl
@[simp] theorem issue_control (w : Word) (s : State) : (issue w s).control = s.control := rfl
@[simp] theorem issue_frequencyDivider (w : Word) (s : State) : (issue w s).frequencyDivider = s.frequencyDivider := rfl
@[simp] theorem issue_tickCounter (w : Word) (s : State) : (issue w s).tickCounter = s.tickCounter := rfl
@[simp] theorem issue_sequenceIndex (w : Word) (s : State) : (issue w s).sequenceIndex = s.sequenceIndex := rfl
@[simp] theorem issue_stepCounter (w : Word) (s : State) : (issue w s).stepCounter = s.stepCounter := rfl
@[simp] theorem issue_currentLevel (w : Word) (s : State) : (issue w s).currentLevel = s.currentLevel := rfl
@[simp] theorem issue_rateAccumulator (w : Word) (s : State) : (issue w s).rateAccumulator = s.rateAccumulator := rfl
@[simp] theorem issue_pend (w : Word) (s : State) : (issue w s).pend = s.pend := rfl
@[simp] theorem issue_commands (w : Word) (s : State) : (issue w s).commands = s.commands ++ [w] := rfl
@[simp] theorem issue_out (w : Word) (s : State) : (issue w s).out = s.out := rfl

/-! ### `deliver` -/

@[simp] theorem deliver_volume (u : UpdateRecord) (s : State) : (deliver u s).volume = s.volume := rfl
@[simp] theorem deliver_control (u : UpdateRecord) (s : State) : (deliver u s).control = s.control := rfl
@[simp] theorem deliver_frequencyDivider (u : UpdateRecord) (s : State) : (deliver u s).frequencyDivider = s.frequencyDivider := rfl
@[simp] theorem deliver_tickCounter (u : UpdateRecord) (s : State) : (deliver u s).tickCounter = s.tickCounter := rfl
@[simp] theorem deliver_sequenceIndex (u : UpdateRecord) (s : State) : (deliver u s).sequenceIndex = s.sequenceIndex := rfl
@[simp] theorem deliver_stepCounter (u : UpdateRecord) (s : State) : (deliver u s).stepCounter = s.stepCounter := rfl
@[simp] theorem deliver_currentLevel (u : UpdateRecord) (s : State) : (deliver u s).currentLevel = s.currentLevel := rfl
@[simp] theorem deliver_rateAccumulator (u : UpdateRecord) (s : State) : (deliver u s).rateAccumulator = s.rateAccumulator := rfl
@[simp] theorem deliver_pend (u : UpdateRecord) (s : State) : (deliver u s).pend = s.pend ++ [u] := rfl
@[simp] theorem deliver_commands (u : UpdateRecord) (s : State) : (deliver u s).commands = s.commands := rfl
@[simp] theorem deliver_out (u : UpdateRecord) (s : State) : (deliver u s).out = s.out := rfl

/-! ### `takeCommand` -/

@[simp] theorem takeCommand_volume (rest : List Word) (s : State) : (takeCommand rest s).volume = s.volume := rfl
@[simp] theorem takeCommand_control (rest : List Word) (s : State) : (takeCommand rest s).control = s.control := rfl
@[simp] theorem takeCommand_frequencyDivider (rest : List Word) (s : State) : (takeCommand rest s).frequencyDivider = s.frequencyDivider := rfl
@[simp] theorem takeCommand_tickCounter (rest : List Word) (s : State) : (takeCommand rest s).tickCounter = s.tickCounter := rfl
@[simp] theorem takeCommand_sequenceIndex (rest : List Word) (s : State) : (takeCommand rest s).sequenceIndex = s.sequenceIndex := rfl
@[simp] theorem takeCommand_stepCounter (rest : List Word) (s : State) : (takeCommand rest s).stepCounter = s.stepCounter := rfl
@[simp] theorem takeCommand_currentLevel (rest : List Word) (s : State) : (takeCommand rest s).currentLevel = s.currentLevel := rfl
@[simp] theorem takeCommand_rateAccumulator (rest : List Word) (s : State) : (takeCommand rest s).rateAccumulator = s.rateAccumulator := rfl
@[simp] theorem takeCommand_pend (rest : List Word) (s : State) : (takeCommand rest s).pend = s.pend := rfl
@[simp] theorem takeCommand_commands (rest : List Word) (s : State) : (takeCommand rest s).commands = rest := rfl
@[simp] theorem takeCommand_out (rest : List Word) (s : State) : (takeCommand rest s).out = s.out := rfl

/-! ### `presentWord` -/

@[simp] theorem presentWord_volume (w : Word) (s : State) : (presentWord w s).volume = s.volume := rfl
@[simp] theorem presentWord_control (w : Word) (s : State) : (presentWord w s).control = s.control := rfl
@[simp] theorem presentWord_frequencyDivider (w : Word) (s : State) : (presentWord w s).frequencyDivider = s.frequencyDivider := rfl
@[simp] theorem presentWord_tickCounter (w : Word) (s : State) : (presentWord w s).tickCounter = s.tickCounter := rfl
@[simp] theorem presentWord_sequenceIndex (w : Word) (s : State) : (presentWord w s).sequenceIndex = s.sequenceIndex := rfl
@[simp] theorem presentWord_stepCounter (w : Word) (s : State) : (presentWord w s).stepCounter = s.stepCounter := rfl
@[simp] theorem presentWord_currentLevel (w : Word) (s : State) : (presentWord w s).currentLevel = s.currentLevel := rfl
@[simp] theorem presentWord_rateAccumulator (w : Word) (s : State) : (presentWord w s).rateAccumulator = s.rateAccumulator := rfl
@[simp] theorem presentWord_pend (w : Word) (s : State) : (presentWord w s).pend = s.pend := rfl
@[simp] theorem presentWord_commands (w : Word) (s : State) : (presentWord w s).commands = w :: s.commands := rfl
@[simp] theorem presentWord_out (w : Word) (s : State) : (presentWord w s).out = s.out := rfl

/-! ### `withFetchWord` -/

@[simp] theorem State.withFetchWord_volume (s : State) (nbits w : Nat) : (s.withFetchWord nbits w).volume = s.volume := rfl
@[simp] theorem State.withFetchWord_control (s : State) (nbits w : Nat) : (s.withFetchWord nbits w).control = s.control := rfl
@[simp] theorem State.withFetchWord_frequencyDivider (s : State) (nbits w : Nat) : (s.withFetchWord nbits w).frequencyDivider = s.frequencyDivider := rfl
@[simp] theorem State.withFetchWord_tickCounter (s : State) (nbits w : Nat) : (s.withFetchWord nbits w).tickCounter = s.tickCounter := rfl
@[simp] theorem State.withFetchWord_sequenceIndex (s : State) (nbits w : Nat) : (s.withFetchWord nbits w).sequenceIndex = s.sequenceIndex := rfl
@[simp] theorem State.withFetchWord_stepCounter (s : State) (nbits w : Nat) : (s.withFetchWord nbits w).stepCounter = s.stepCounter := rfl
@[simp] theorem State.withFetchWord_currentLevel (s : State) (nbits w : Nat) : (s.withFetchWord nbits w).currentLevel = s.currentLevel := rfl
@[simp] theorem State.withFetchWord_rateAccumulator (s : State) (nbits w : Nat) : (s.withFetchWord nbits w).rateAccumulator = s.rateAccumulator := rfl
@[simp] theorem State.withFetchWord_pend (s : State) (nbits w : Nat) : (s.withFetchWord nbits w).pend = s.pend := rfl
@[simp] theorem State.withFetchWord_commands (s : State) (nbits w : Nat) : (s.withFetchWord nbits w).commands = tableWord nbits w :: s.commands := rfl
@[simp] theorem State.withFetchWord_out (s : State) (nbits w : Nat) : (s.withFetchWord nbits w).out = s.out := rfl

/-! ### `emitSample` -/

@[simp] theorem emitSample_volume (s : State) : (emitSample s).volume = s.volume := rfl
@[simp] theorem emitSample_control (s : State) : (emitSample s).control = s.control := rfl
@[simp] theorem emitSample_frequencyDivider (s : State) : (emitSample s).frequencyDivider = s.frequencyDivider := rfl
@[simp] theorem emitSample_tickCounter (s : State) : (emitSample s).tickCounter = s.tickCounter := rfl
@[simp] theorem emitSample_sequenceIndex (s : State) : (emitSample s).sequenceIndex = s.sequenceIndex := rfl
@[simp] theorem emitSample_stepCounter (s : State) : (emitSample s).stepCounter = s.stepCounter := rfl
@[simp] theorem emitSample_currentLevel (s : State) : (emitSample s).currentLevel = s.currentLevel := rfl
@[simp] theorem emitSample_rateAccumulator (s : State) : (emitSample s).rateAccumulator = s.rateAccumulator := rfl
@[simp] theorem emitSample_pend (s : State) : (emitSample s).pend = s.pend := rfl
@[simp] theorem emitSample_commands (s : State) : (emitSample s).commands = s.commands := rfl
@[simp] theorem emitSample_out (s : State) : (emitSample s).out = s.out ++ [sampleNumerator s] := rfl

/-! ### `emitAndPay` -/

@[simp] theorem emitAndPay_volume (cfg : Config) (s : State) : (emitAndPay cfg s).volume = s.volume := rfl
@[simp] theorem emitAndPay_control (cfg : Config) (s : State) : (emitAndPay cfg s).control = s.control := rfl
@[simp] theorem emitAndPay_frequencyDivider (cfg : Config) (s : State) : (emitAndPay cfg s).frequencyDivider = s.frequencyDivider := rfl
@[simp] theorem emitAndPay_tickCounter (cfg : Config) (s : State) : (emitAndPay cfg s).tickCounter = s.tickCounter := rfl
@[simp] theorem emitAndPay_sequenceIndex (cfg : Config) (s : State) : (emitAndPay cfg s).sequenceIndex = s.sequenceIndex := rfl
@[simp] theorem emitAndPay_stepCounter (cfg : Config) (s : State) : (emitAndPay cfg s).stepCounter = s.stepCounter := rfl
@[simp] theorem emitAndPay_currentLevel (cfg : Config) (s : State) : (emitAndPay cfg s).currentLevel = s.currentLevel := rfl
@[simp] theorem emitAndPay_rateAccumulator (cfg : Config) (s : State) : (emitAndPay cfg s).rateAccumulator = s.rateAccumulator - cfg.fNative := rfl
@[simp] theorem emitAndPay_pend (cfg : Config) (s : State) : (emitAndPay cfg s).pend = s.pend := rfl
@[simp] theorem emitAndPay_commands (cfg : Config) (s : State) : (emitAndPay cfg s).commands = s.commands := rfl
@[simp] theorem emitAndPay_out (cfg : Config) (s : State) : (emitAndPay cfg s).out = s.out ++ [sampleNumerator s] := rfl

/-! ### Registers by number -/

@[simp] theorem State.x_zero (s : State) : s.x 0 = s.volume.val := rfl
@[simp] theorem State.x_one (s : State) : s.x 1 = s.control.val := rfl
@[simp] theorem State.x_two (s : State) : s.x 2 = s.frequencyDivider.val := rfl

/-! ### `lookup` -/

@[simp] theorem lookup_seq (cfg : Config) (s : State) : (lookup cfg s).seq = seqAt cfg s.control := rfl
@[simp] theorem lookup_div (cfg : Config) (s : State) : (lookup cfg s).div = divAt cfg s.control := rfl

end Sys2Proof.Machine
end

