-- ==== Sys2Proof/Laws/Ops.lean ====
section
/-! SUPPORT. What the shared operations over operands, flags and the table space can do. -/

namespace Sys2Proof.Machine

/-! ### Flags and operands -/

@[simp] theorem levelOf_zero : levelOf 0 = true := rfl

@[simp] theorem levelOf_eq_true (i : Nat) : levelOf i = true ↔ i % 2 = 0 := by simp [levelOf]

@[simp] theorem levelOf_eq_false (i : Nat) : levelOf i = false ↔ i % 2 = 1 := by
  simp [levelOf]

@[simp] theorem levelValue_true : levelValue true = 1 := rfl
@[simp] theorem levelValue_false : levelValue false = 0 := rfl

theorem levelValue_le_one (b : Bool) : levelValue b ≤ 1 := by cases b <;> decide

theorem clamp_eq_max_min (v lo hi : Int) (h : lo ≤ hi) : clamp v lo hi = max lo (min v hi) := by
  unfold clamp; split <;> (try split) <;> omega

theorem clampTo_val (m : Nat) (v : Int) : ((clampTo m v).val : Int) = max 0 (min v m) := by
  rw [← clamp_eq_max_min v 0 m (by omega)]
  simp only [clampTo]
  have : 0 ≤ clamp v 0 m := by rw [clamp_eq_max_min _ _ _ (by omega)]; omega
  omega

theorem clampTo_ofNat (m n : Nat) (h : n ≤ m) : (clampTo m n).val = n := by
  have := clampTo_val m n
  omega

/-! ### The sample code -/

theorem sampleNumerator_toNat (s : State) :
    (sampleNumerator s).toNat = levelValue s.currentLevel * s.volume.val := by
  have hv := s.volume.isLt
  unfold sampleNumerator
  cases s.currentLevel <;> simp

/-- The code of a sample depends on the level and the volume alone. -/
theorem sampleNumerator_congr {s t : State} (hl : s.currentLevel = t.currentLevel) (hv : s.volume = t.volume) :
    sampleNumerator s = sampleNumerator t := by
  simp [sampleNumerator, hl, hv]

theorem sampleNumerator_of_level_false {s : State} (h : s.currentLevel = false) : sampleNumerator s = 0 := by
  simp [sampleNumerator, h]

theorem sampleNumerator_of_level_true {s : State} (h : s.currentLevel = true) :
    sampleNumerator s = BitVec.ofNat 4 s.volume.val := by
  simp [sampleNumerator, h]

/-! ### The table space -/

theorem seqAt_of_lt {cfg : Config} {c : Fin 16} {i : Nat} (h : i < seqLen cfg c) :
    seqAt cfg c i = ((cfg.table c).seq[i]'h : Int) := by
  have h' : i < (cfg.table c).seq.length := h
  simp only [seqAt, List.getElem?_eq_getElem h']
  rfl

theorem seqAt_of_ge {cfg : Config} {c : Fin 16} {i : Nat} (h : seqLen cfg c ≤ i) : seqAt cfg c i = SENTINEL := by
  have h' : (cfg.table c).seq.length ≤ i := h
  simp [seqAt, List.getElem?_eq_none h']

theorem one_le_seqAt {cfg : Config} (hw : cfg.Wf) {c : Fin 16} {i : Nat} (h : i < seqLen cfg c) : 1 ≤ seqAt cfg c i := by
  rw [seqAt_of_lt h]
  have := (hw.2.2.2.1 c).2.1 _ (List.getElem_mem h)
  omega

/-- Where the sentinel stands, as far as the total `SEQ` goes: past the run lengths. -/
theorem seqAt_eq_sentinel {cfg : Config} {c : Fin 16} {i : Nat} : seqAt cfg c i = SENTINEL ↔ seqLen cfg c ≤ i := by
  constructor
  · intro h
    by_cases hi : i < seqLen cfg c
    · rw [seqAt_of_lt hi] at h; simp only [SENTINEL] at h; omega
    · omega
  · exact seqAt_of_ge

theorem one_le_seqLen {cfg : Config} (hw : cfg.Wf) (c : Fin 16) : 1 ≤ seqLen cfg c :=
  List.length_pos_iff.2 (hw.2.2.2.1 c).1

theorem one_le_divAt {cfg : Config} (hw : cfg.Wf) (c : Fin 16) : 1 ≤ divAt cfg c := (hw.2.2.2.1 c).2.2

theorem period_pos {cfg : Config} (hw : cfg.Wf) (c : Fin 16) (f : Fin 32) : 0 < period cfg c f :=
  Nat.mul_pos (one_le_divAt hw c) (Nat.succ_pos _)

/-! ### The open values are well formed -/

theorem openEntry_wf (e : OpenEntry) : e.entry.Wf := by
  refine ⟨by simp [OpenEntry.entry], ?_, by simp [OpenEntry.entry]⟩
  intro r hr
  obtain ⟨a, -, rfl⟩ := List.mem_map.1 hr
  omega

theorem openFloatFmt_wf (f : OpenFloatFmt) : f.fmt.Wf :=
  ⟨Nat.le_add_left _ _, Nat.le_add_left _ _⟩

theorem referenceTable_wf (c : Fin 16) : (referenceTable c).Wf := by
  unfold referenceTable
  split
  · decide
  · exact openEntry_wf _

@[simp] theorem reference_fOut : reference.fOut = 48000 := rfl
@[simp] theorem reference_fNative : reference.fNative = 31440 := rfl
@[simp] theorem reference_block : reference.block = 128 := rfl

/-- Entry 0 is the printed one, whatever the open entries are. -/
@[simp] theorem reference_table_zero : reference.table 0 = ⟨[1], 1⟩ := rfl

end Sys2Proof.Machine
end

