-- ==== Sys2Proof/Laws/PerInstr.lean ====
section
/-! SUPPORT. Laws made per command, one lemma per constructor of `Instr`. -/

namespace Sys2Proof.Laws.EncodeMatchesRow

/-- The encoder's word lies in the command's row of the opcode table: its bits under the row's mask are the row's value. -/
def Statement (i : Instr) : Prop := (opcodeRow i).matchesWord (encode i) = true

theorem update (v c f : Int) : Statement (.update v c f) := by
  have h : formatU 0b0001#4 (field8 v) (field8 c) (field8 f) &&& 0xFF000000#32 = 0x10000000#32 := by
    apply BitVec.eq_of_getLsbD_eq
    intro i hi
    simp only [formatU, BitVec.getLsbD_and, BitVec.getLsbD_append]
    interval_cases i <;> simp
  simp [Statement, OpcodeRow.matchesWord, opcodeRow, encode, h]

theorem sample : Statement .sample := by unfold Statement; decide

theorem fill : Statement .fill := by unfold Statement; decide

end Sys2Proof.Laws.EncodeMatchesRow
end

