-- ==== Sys2Proof/Laws/ToneSequencer.lean ====
section
/-! SUPPORT. What LOOKUP, TICK and ADVANCE can do: the fields they write, and that nothing else matters to them. -/

namespace Sys2Proof.Machine

/-- The phase of the sequencer: the four fields TICK and ADVANCE write. -/
structure Phase where
  tick : Nat
  idx : Nat
  step : Nat
  lvl : Bool
deriving DecidableEq, Repr

/-- The phase of a state. -/
def State.phase (s : State) : Phase := ⟨s.tickCounter, s.sequenceIndex, s.stepCounter, s.currentLevel⟩

/-- A state with another phase. -/
def State.withPhase (s : State) (p : Phase) : State :=
  { s with tickCounter := p.tick, sequenceIndex := p.idx, stepCounter := p.step, currentLevel := p.lvl }

/-- What ADVANCE makes of a phase, as one expression. -/
def advancePhase (cfg : Config) (c : Fin 16) (p : Phase) : Phase :=
  let hit := ((p.step + 1 : Nat) : Int) = seqAt cfg c p.idx
  let idx := if hit then p.idx + 1 else p.idx
  let idx := if seqAt cfg c idx = SENTINEL then 0 else idx
  ⟨p.tick, idx, if hit then 0 else p.step + 1, levelOf idx⟩

/-- What TICK makes of a phase. -/
def tickPhase (cfg : Config) (c : Fin 16) (f : Fin 32) (p : Phase) : Phase :=
  if p.tick + 1 = period cfg c f then advancePhase cfg c { p with tick := 0 } else { p with tick := p.tick + 1 }

/-- `k` ticks of a phase. -/
def ticksPhase (cfg : Config) (c : Fin 16) (f : Fin 32) : Nat → Phase → Phase
  | 0, p => p
  | k + 1, p => ticksPhase cfg c f k (tickPhase cfg c f p)

@[simp] theorem State.withPhase_phase (s : State) : s.withPhase s.phase = s := rfl
@[simp] theorem State.phase_withPhase (s : State) (p : Phase) : (s.withPhase p).phase = p := rfl
@[simp] theorem State.withPhase_withPhase (s : State) (p q : Phase) : (s.withPhase p).withPhase q = s.withPhase q := rfl
@[simp] theorem State.withPhase_volume (s : State) (p : Phase) : (s.withPhase p).volume = s.volume := rfl
@[simp] theorem State.withPhase_control (s : State) (p : Phase) : (s.withPhase p).control = s.control := rfl
@[simp] theorem State.withPhase_frequencyDivider (s : State) (p : Phase) :
    (s.withPhase p).frequencyDivider = s.frequencyDivider := rfl
@[simp] theorem State.withPhase_tickCounter (s : State) (p : Phase) : (s.withPhase p).tickCounter = p.tick := rfl
@[simp] theorem State.withPhase_sequenceIndex (s : State) (p : Phase) : (s.withPhase p).sequenceIndex = p.idx := rfl
@[simp] theorem State.withPhase_stepCounter (s : State) (p : Phase) : (s.withPhase p).stepCounter = p.step := rfl
@[simp] theorem State.withPhase_currentLevel (s : State) (p : Phase) : (s.withPhase p).currentLevel = p.lvl := rfl
@[simp] theorem State.withPhase_rateAccumulator (s : State) (p : Phase) :
    (s.withPhase p).rateAccumulator = s.rateAccumulator := rfl
@[simp] theorem State.withPhase_pend (s : State) (p : Phase) : (s.withPhase p).pend = s.pend := rfl
@[simp] theorem State.withPhase_commands (s : State) (p : Phase) : (s.withPhase p).commands = s.commands := rfl
@[simp] theorem State.withPhase_out (s : State) (p : Phase) : (s.withPhase p).out = s.out := rfl

/-- ADVANCE steps a and b as one change of phase. -/
theorem advanceStep_eq (seq : Nat → Int) (s : State) :
    advanceStep seq s = s.withPhase
      ⟨s.tickCounter, if ((s.stepCounter + 1 : Nat) : Int) = seq s.sequenceIndex then s.sequenceIndex + 1 else s.sequenceIndex,
        if ((s.stepCounter + 1 : Nat) : Int) = seq s.sequenceIndex then 0 else s.stepCounter + 1, s.currentLevel⟩ := by
  by_cases h : ((s.stepCounter + 1 : Nat) : Int) = seq s.sequenceIndex
  · rw [advanceStep, if_pos h, if_pos h, if_pos h]; rfl
  · rw [advanceStep, if_neg h, if_neg h, if_neg h]; rfl

/-- ADVANCE step c as one change of phase. -/
theorem wrapIndex_eq (seq : Nat → Int) (s : State) :
    wrapIndex seq s = s.withPhase
      ⟨s.tickCounter, if seq s.sequenceIndex = SENTINEL then 0 else s.sequenceIndex, s.stepCounter, s.currentLevel⟩ := by
  by_cases h : seq s.sequenceIndex = SENTINEL
  · rw [wrapIndex, if_pos h, if_pos h]; rfl
  · rw [wrapIndex, if_neg h, if_neg h]; rfl

/-- ADVANCE touches the phase only, and reads `control` and the phase only. -/
theorem advance_eq (cfg : Config) (s : State) : advance cfg s = s.withPhase (advancePhase cfg s.control s.phase) := by
  rw [advance, wrapIndex_eq, advanceStep_eq]; rfl

/-- TICK touches the phase only, and reads `control`, `frequencyDivider` and the phase only. -/
theorem tick_eq (cfg : Config) (s : State) :
    tick cfg s = s.withPhase (tickPhase cfg s.control s.frequencyDivider s.phase) := by
  by_cases h : s.tickCounter + 1 = period cfg s.control s.frequencyDivider
  · have h' : s.tickCounter + 1 = (lookup cfg s).div * (s.x 2 + 1) := h
    have h'' : s.phase.tick + 1 = period cfg s.control s.frequencyDivider := h
    rw [tick, if_pos h', advance_eq, tickPhase, if_pos h'']; rfl
  · have h' : ¬ s.tickCounter + 1 = (lookup cfg s).div * (s.x 2 + 1) := h
    have h'' : ¬ s.phase.tick + 1 = period cfg s.control s.frequencyDivider := h
    rw [tick, if_neg h', tickPhase, if_neg h'']; rfl

theorem ticks_eq (cfg : Config) (k : Nat) (s : State) :
    ticks cfg k s = s.withPhase (ticksPhase cfg s.control s.frequencyDivider k s.phase) := by
  induction k generalizing s with
  | zero => rfl
  | succ k ih => simp [ticks, ticksPhase, ih, tick_eq]

theorem ticksPhase_add (cfg : Config) (c : Fin 16) (f : Fin 32) (j k : Nat) (p : Phase) :
    ticksPhase cfg c f (j + k) p = ticksPhase cfg c f k (ticksPhase cfg c f j p) := by
  induction j generalizing p with
  | zero => simp [ticksPhase]
  | succ j ih => rw [Nat.succ_add]; exact ih _

theorem ticksPhase_succ (cfg : Config) (c : Fin 16) (f : Fin 32) (k : Nat) (p : Phase) :
    ticksPhase cfg c f (k + 1) p = tickPhase cfg c f (ticksPhase cfg c f k p) := ticksPhase_add cfg c f k 1 p

theorem ticks_add (cfg : Config) (j k : Nat) (s : State) : ticks cfg (j + k) s = ticks cfg k (ticks cfg j s) := by
  simp [ticks_eq, ticksPhase_add]

/-! ### Frames: the fields TICK leaves alone -/

@[simp] theorem advance_tickCounter (cfg : Config) (s : State) : (advance cfg s).tickCounter = s.tickCounter := by
  simp [advance_eq, advancePhase, State.phase]
@[simp] theorem ticks_volume (cfg : Config) (k : Nat) (s : State) : (ticks cfg k s).volume = s.volume := by simp [ticks_eq]
@[simp] theorem ticks_control (cfg : Config) (k : Nat) (s : State) : (ticks cfg k s).control = s.control := by simp [ticks_eq]
@[simp] theorem ticks_frequencyDivider (cfg : Config) (k : Nat) (s : State) :
    (ticks cfg k s).frequencyDivider = s.frequencyDivider := by simp [ticks_eq]
@[simp] theorem ticks_rateAccumulator (cfg : Config) (k : Nat) (s : State) :
    (ticks cfg k s).rateAccumulator = s.rateAccumulator := by simp [ticks_eq]
@[simp] theorem ticks_pend (cfg : Config) (k : Nat) (s : State) : (ticks cfg k s).pend = s.pend := by simp [ticks_eq]
@[simp] theorem ticks_commands (cfg : Config) (k : Nat) (s : State) : (ticks cfg k s).commands = s.commands := by simp [ticks_eq]
@[simp] theorem ticks_out (cfg : Config) (k : Nat) (s : State) : (ticks cfg k s).out = s.out := by simp [ticks_eq]

end Sys2Proof.Machine
end

