-- ==== Sys2Proof/Laws/RateConverter.lean ====
section
/-! SUPPORT. What EMIT, SAMPLE and FILL can do: SAMPLE in one equation over `ticks`, and the frames of both commands. -/

namespace Sys2Proof.Machine

/-- One base tick, with its accumulator. -/
theorem baseTick_eq (cfg : Config) (s : State) :
    baseTick cfg s = { ticks cfg 1 s with rateAccumulator := s.rateAccumulator + cfg.fOut } := by
  have h : (tick cfg s).rateAccumulator = s.rateAccumulator := ticks_rateAccumulator cfg 1 s
  simp only [baseTick, h]; rfl

/-- `k` ticks and `k` times `F_OUT`: what `k` passes of SAMPLE's loop come to. -/
def runTicks (cfg : Config) (k : Nat) (s : State) : State :=
  { ticks cfg k s with rateAccumulator := s.rateAccumulator + k * cfg.fOut }

/-- Ticks do not read the accumulator. -/
theorem ticks_withAccumulator (cfg : Config) (k : Nat) (s : State) (a : Nat) :
    ticks cfg k { s with rateAccumulator := a } = { ticks cfg k s with rateAccumulator := a } := by
  simp only [ticks_eq]; rfl

theorem runTicks_zero (cfg : Config) (s : State) : runTicks cfg 0 s = s := by simp [runTicks, ticks]

theorem runTicks_succ (cfg : Config) (k : Nat) (s : State) : runTicks cfg (k + 1) s = runTicks cfg k (baseTick cfg s) := by
  simp only [runTicks, baseTick_eq, ticks_withAccumulator, ← ticks_add, Nat.add_comm 1 k, Nat.succ_mul]
  simp only [Nat.add_assoc, Nat.add_comm cfg.fOut]

/-- SAMPLE's loop: it stops after the first `k` passes that reach `F_NATIVE`, if the fuel lets it. -/
theorem tickWhileDue_eq (cfg : Config) (k fuel : Nat) (s : State) (hf : k ≤ fuel)
    (hlow : ∀ j < k, s.rateAccumulator + j * cfg.fOut < cfg.fNative)
    (hhigh : cfg.fNative ≤ s.rateAccumulator + k * cfg.fOut) :
    tickWhileDue cfg fuel s = runTicks cfg k s := by
  induction k generalizing fuel s with
  | zero =>
    rw [runTicks_zero]
    cases fuel with
    | zero => rfl
    | succ fuel => simp only [tickWhileDue]; rw [if_neg (by omega)]
  | succ k ih =>
    obtain ⟨fuel, rfl⟩ : ∃ n, fuel = n + 1 := ⟨fuel - 1, by omega⟩
    have h0 := hlow 0 (by omega)
    have hacc : (baseTick cfg s).rateAccumulator = s.rateAccumulator + cfg.fOut := by rw [baseTick_eq]
    simp only [tickWhileDue]
    rw [if_pos (by omega), runTicks_succ, ih fuel (baseTick cfg s) (by omega)]
    · intro j hj
      have := hlow (j + 1) (by omega)
      rw [Nat.succ_mul] at this
      omega
    · rw [Nat.succ_mul] at hhigh; omega

/-- The bound of R154 is the exact number of passes. -/
theorem ticksDue_exact (cfg : Config) (h : 1 ≤ cfg.fOut) (acc : Nat) :
    (∀ j < ticksDue cfg acc, acc + j * cfg.fOut < cfg.fNative) ∧ cfg.fNative ≤ acc + ticksDue cfg acc * cfg.fOut := by
  have hd := Nat.div_add_mod (cfg.fNative - acc + cfg.fOut - 1) cfg.fOut
  have hm := Nat.mod_lt (cfg.fNative - acc + cfg.fOut - 1) (show 0 < cfg.fOut by omega)
  change cfg.fOut * ticksDue cfg acc + _ = _ at hd
  rw [Nat.mul_comm] at hd
  constructor
  · intro j hj
    have := Nat.mul_le_mul_right cfg.fOut (show j + 1 ≤ ticksDue cfg acc from hj)
    rw [Nat.succ_mul] at this
    omega
  · omega

/-- SAMPLE in one equation: the ticks that are due, one sample of the level after them, `F_NATIVE` paid. -/
theorem sample_eq_runTicks (cfg : Config) (h : 1 ≤ cfg.fOut) (s : State) :
    sample cfg s = emitAndPay cfg (runTicks cfg (ticksDue cfg s.rateAccumulator) s) := by
  obtain ⟨hlow, hhigh⟩ := ticksDue_exact cfg h s.rateAccumulator
  rw [sample, tickWhileDue_eq cfg _ _ s (Nat.le_refl _) hlow hhigh]

/-! ### Frames: what a run of the loop, a sample and a block leave alone -/

theorem tickWhileDue_frame (cfg : Config) (fuel : Nat) (s : State) :
    (tickWhileDue cfg fuel s).volume = s.volume ∧ (tickWhileDue cfg fuel s).control = s.control ∧
      (tickWhileDue cfg fuel s).frequencyDivider = s.frequencyDivider ∧ (tickWhileDue cfg fuel s).pend = s.pend ∧
      (tickWhileDue cfg fuel s).commands = s.commands ∧ (tickWhileDue cfg fuel s).out = s.out := by
  induction fuel generalizing s with
  | zero => simp [tickWhileDue]
  | succ fuel ih =>
    simp only [tickWhileDue]
    split
    · obtain ⟨h1, h2, h3, h4, h5, h6⟩ := ih (baseTick cfg s)
      rw [h1, h2, h3, h4, h5, h6, baseTick_eq]
      simp
    · simp

@[simp] theorem sample_volume (cfg : Config) (s : State) : (sample cfg s).volume = s.volume :=
  (tickWhileDue_frame cfg _ s).1
@[simp] theorem sample_control (cfg : Config) (s : State) : (sample cfg s).control = s.control :=
  (tickWhileDue_frame cfg _ s).2.1
@[simp] theorem sample_frequencyDivider (cfg : Config) (s : State) : (sample cfg s).frequencyDivider = s.frequencyDivider :=
  (tickWhileDue_frame cfg _ s).2.2.1
@[simp] theorem sample_pend (cfg : Config) (s : State) : (sample cfg s).pend = s.pend :=
  (tickWhileDue_frame cfg _ s).2.2.2.1
@[simp] theorem sample_commands (cfg : Config) (s : State) : (sample cfg s).commands = s.commands :=
  (tickWhileDue_frame cfg _ s).2.2.2.2.1

/-- The sample SAMPLE appends is that of the state it leaves: its last write is to the accumulator. -/
theorem sample_out (cfg : Config) (s : State) : (sample cfg s).out = s.out ++ [sampleNumerator (sample cfg s)] := by
  have h := (tickWhileDue_frame cfg (ticksDue cfg s.rateAccumulator) s).2.2.2.2.2
  have : sampleNumerator (sample cfg s) = sampleNumerator (tickWhileDue cfg (ticksDue cfg s.rateAccumulator) s) := rfl
  rw [this, ← h]; rfl

theorem samples_add (cfg : Config) (m n : Nat) (s : State) : samples cfg (m + n) s = samples cfg n (samples cfg m s) := by
  induction m generalizing s with
  | zero => simp [samples]
  | succ m ih => rw [Nat.succ_add]; exact ih _

end Sys2Proof.Machine
end

