-- ==== Sys2Proof/Laws/Step.lean ====
section
/-! SUPPORT. What one step can do, said once, and what draining the pending updates can do. -/

namespace Sys2Proof.Machine

@[simp] theorem exec_update (v c f : Int) (s : State) : exec (.update v c f) s = .next (applyUpdate v c f s) := rfl
@[simp] theorem exec_sample (s : State) : exec .sample s = .next (sample reference s) := rfl
@[simp] theorem exec_fill (s : State) : exec .fill s = .next (fill reference s) := rfl

@[simp] theorem execIn_update (cfg : Config) (v c f : Int) (s : State) :
    execIn cfg (.update v c f) s = .next (applyUpdate v c f s) := rfl
@[simp] theorem execIn_sample (cfg : Config) (s : State) : execIn cfg .sample s = .next (sample cfg s) := rfl
@[simp] theorem execIn_fill (cfg : Config) (s : State) : execIn cfg .fill s = .next (fill cfg s) := rfl

@[simp] theorem andThen_next {α β : Type} (t : α) (f : α → Host.Outcome β Fault Refusal) : andThen (.next t) f = f t := rfl
@[simp] theorem andThen_refused {α β : Type} (r : Refusal) (f : α → Host.Outcome β Fault Refusal) :
    andThen (.refused r) f = .refused r := rfl

/-- Everything `andThen` can answer a next state for. -/
theorem andThen_eq_next {α β : Type} {o : Host.Outcome α Fault Refusal} {f : α → Host.Outcome β Fault Refusal} {b : β} :
    andThen o f = .next b ↔ ∃ t, o = .next t ∧ f t = .next b := by
  rcases o with t | r | r
  · simp
  · cases r
  · simp

/-! ### The machine of fixed type is the instance at the reference parameters -/

theorem exec_eq_execIn (i : Instr) (s : State) : exec i s = execIn reference i s := by cases i <;> rfl

theorem step_eq_stepIn : step = stepIn reference := by
  funext s
  have h : exec = execIn reference := by funext i t; exact exec_eq_execIn i t
  rw [step, stepIn, h]

theorem run_eq_runIn : run = runIn reference := by
  funext k s
  rw [run, runIn, step_eq_stepIn]

/-- What a command makes of a state: `execIn` never answers anything else. -/
def execState (cfg : Config) : Instr → State → State
  | .update v c f, s => applyUpdate v c f s
  | .sample, s => sample cfg s
  | .fill, s => fill cfg s

theorem execIn_eq_next (cfg : Config) (i : Instr) (s : State) : execIn cfg i s = .next (execState cfg i s) := by
  cases i <;> rfl

theorem exec_eq_next (i : Instr) (s : State) : exec i s = .next (execState reference i s) := by cases i <;> rfl

/-! ### Runs -/

@[simp] theorem runIn_zero (cfg : Config) (s : State) : runIn cfg 0 s = .next s := rfl
@[simp] theorem run_zero (s : State) : run 0 s = .next s := rfl

theorem runIn_succ (cfg : Config) (k : Nat) (s : State) : runIn cfg (k + 1) s = andThen (stepIn cfg s) (runIn cfg k) := rfl
theorem run_succ (k : Nat) (s : State) : run (k + 1) s = andThen (step s) (run k) := rfl

/-- A run of `m + n` steps is a run of `m` steps and, if it is not refused, one of `n`. -/
theorem runIn_add (cfg : Config) (m n : Nat) (s : State) : runIn cfg (m + n) s = andThen (runIn cfg m s) (runIn cfg n) := by
  induction m generalizing s with
  | zero => simp
  | succ m ih =>
    rw [Nat.succ_add, runIn_succ, runIn_succ]
    rcases stepIn cfg s with t | r | r
    · exact ih t
    · cases r
    · rfl

/-- A run whose first step answers a next state goes on from it. -/
theorem run_succ_of_next {s t : State} (k : Nat) (h : step s = .next t) : run (k + 1) s = run k t := by
  rw [run_succ, h]; rfl

/-- A run whose first step is refused is refused. -/
theorem run_succ_of_refused {s : State} {r : Refusal} (k : Nat) (h : step s = .refused r) : run (k + 1) s = .refused r := by
  rw [run_succ, h]; rfl

/-- `runIn` is the host's run of the machine with the same parameters. -/
theorem machine_run_eq (cfg : Config) (k : Nat) (s : State) : Host.Core.run (machine cfg) k s = runIn cfg k s := by
  induction k generalizing s with
  | zero => rfl
  | succ k ih =>
    rw [runIn_succ]
    simp only [Host.Core.run]
    rcases h : stepIn cfg s with t | r | r
    · have hc : (machine cfg).step s = .next t := h
      rw [hc]
      exact ih t
    · cases r
    · have hc : (machine cfg).step s = .refused r := h
      rw [hc]
      rfl

/-- `run` is the host's run of `core`. -/
theorem core_run_eq (k : Nat) (s : State) : core.run k s = run k s := by
  have h : core = machine reference := by rw [core, machine, step_eq_stepIn]
  rw [run_eq_runIn, ← machine_run_eq]
  congr 1

/-- Draining looks at the last pending update only. -/
theorem drainPending_cases (s : State) :
    (s.pend = [] ∧ drainPending s = s) ∨
      ∃ us u, s.pend = us ++ [u] ∧
        drainPending s = { applyUpdate u.volume u.control u.frequencyDivider s with pend := [] } := by
  have last : ∀ (us : List UpdateRecord) (u : UpdateRecord) (t : State),
      applyUpdates (us ++ [u]) t = applyUpdate u.volume u.control u.frequencyDivider t := by
    intro us u
    induction us with
    | nil => intro t; rfl
    | cons w us ih => intro t; exact ih _
  rcases List.eq_nil_or_concat s.pend with h | ⟨us, u, h⟩
  · left
    refine ⟨h, ?_⟩
    simp only [drainPending, h, applyUpdates]
    rw [← h]
  · right
    refine ⟨us, u, by simpa using h, ?_⟩
    have h' : s.pend = us ++ [u] := by simpa using h
    simp only [drainPending, h', last]
    rfl

@[simp] theorem drainPending_pend (s : State) : (drainPending s).pend = [] := by
  rcases drainPending_cases s with ⟨h, h'⟩ | ⟨us, u, -, h'⟩ <;> rw [h']
  exact h

@[simp] theorem drainPending_commands (s : State) : (drainPending s).commands = s.commands := by
  rcases drainPending_cases s with ⟨-, h'⟩ | ⟨us, u, -, h'⟩ <;> rw [h']
  rfl

@[simp] theorem drainPending_out (s : State) : (drainPending s).out = s.out := by
  rcases drainPending_cases s with ⟨-, h'⟩ | ⟨us, u, -, h'⟩ <;> rw [h']
  rfl

/-- Everything a step that answers a next state can have done. -/
theorem stepIn_cases {cfg : Config} {s t : State} (h : stepIn cfg s = .next t) :
    (s.commands = [] ∧ t = s) ∨
      ∃ w rest i, s.commands = w :: rest ∧ decodeWord w = .ok i ∧
        t = execState cfg i (drainPending (takeCommand rest s)) := by
  unfold stepIn stepBy at h
  split at h
  · left; cases h; exact ⟨by assumption, rfl⟩
  · right
    rename_i w rest hc
    split at h
    · rename_i i hd
      rw [execIn_eq_next] at h
      cases h
      exact ⟨w, rest, i, hc, hd, rfl⟩
    · cases h

theorem step_cases {s t : State} (h : step s = .next t) :
    (s.commands = [] ∧ t = s) ∨
      ∃ w rest i, s.commands = w :: rest ∧ decodeWord w = .ok i ∧
        t = execState reference i (drainPending (takeCommand rest s)) :=
  stepIn_cases (by rw [← step_eq_stepIn]; exact h)

/-! ### The three ways a step goes -/

theorem stepIn_of_nil (cfg : Config) {s : State} (h : s.commands = []) : stepIn cfg s = .next s := by
  rw [stepIn, stepBy]; split <;> simp_all

theorem stepIn_of_ok (cfg : Config) {s : State} {w : Word} {rest : List Word} {i : Instr} (h : s.commands = w :: rest)
    (hd : decodeWord w = .ok i) : stepIn cfg s = execIn cfg i (drainPending (takeCommand rest s)) := by
  rw [stepIn, stepBy]; split <;> simp_all

theorem stepIn_of_error (cfg : Config) {s : State} {w : Word} {rest : List Word} {e : DecodeError}
    (h : s.commands = w :: rest) (hd : decodeWord w = .error e) : stepIn cfg s = .refused (refusalOf w) := by
  rw [stepIn, stepBy]; split <;> simp_all

end Sys2Proof.Machine
end

