-- ==== Sys2Proof/Machine/Assembler.lean ====
section
/-! DEFINITION. The assembly notation of `30_encoding.md` R77 and the pseudo-instruction of R78, one line at a time, on lists of
characters. Notation only: no command's meaning depends on it (D18; log entry 24). -/

namespace Sys2Proof.Machine

/-- A `;` starts a comment (R77). -/
def stripComment (line : List Char) : List Char := line.takeWhile (· != ';')

/-- A token that is complete, put before the tokens after it; an empty one is dropped. -/
def pushToken (cur : List Char) (rest : List (List Char)) : List (List Char) :=
  if cur.isEmpty then rest else cur :: rest

/-- The tokens of a line: white space separates, a comma is a token of its own. -/
def tokensFrom (cur : List Char) : List Char → List (List Char)
  | [] => pushToken cur []
  | c :: cs =>
    if c = ' ' ∨ c = '\t' then pushToken cur (tokensFrom [] cs)
    else if c = ',' then pushToken cur ([','] :: tokensFrom [] cs)
    else tokensFrom (cur ++ [c]) cs

/-- A decimal digit's value. -/
def digitValue (c : Char) : Option Nat :=
  if '0' ≤ c ∧ c ≤ '9' then some (c.toNat - '0'.toNat) else none

/-- Decimal digits after a value already read. -/
def readDigits (acc : Nat) : List Char → Option Nat
  | [] => some acc
  | c :: cs =>
    match digitValue c with
    | some d => readDigits (10 * acc + d) cs
    | none => none

/-- A decimal integer `>= 0`. -/
def readNat (t : List Char) : Option Nat := if t.isEmpty then none else readDigits 0 t

/-- A decimal integer, a minus sign allowed. -/
def readInt : List Char → Option Int
  | '-' :: t => (readNat t).map (fun n => -(n : Int))
  | t => (readNat t).map Int.ofNat

/-- The upper-case mnemonics of R77 and R78. -/
def mnemonicUpdate : List Char := ['U', 'P', 'D', 'A', 'T', 'E']
def mnemonicSample : List Char := ['S', 'A', 'M', 'P', 'L', 'E']
def mnemonicFill : List Char := ['F', 'I', 'L', 'L']
def mnemonicSamples : List Char := ['S', 'A', 'M', 'P', 'L', 'E', 'S']

/-- The pseudo-instruction `SAMPLES n` (R78). -/
def expandSamples (n : Nat) : List Instr := List.replicate n .sample

/-- `UPDATE v, c, f` with three operands in -128..127 (R77). -/
def parseUpdate (v c f : List Char) : Option (List Instr) :=
  match readInt v, readInt c, readInt f with
  | some v, some c, some f => if (Instr.update v c f).wellFormed then some [.update v c f] else none
  | _, _, _ => none

/-- The commands of a line's tokens. -/
def parseTokens : List (List Char) → Option (List Instr)
  | [] => some []
  | [m] => if m = mnemonicSample then some [.sample] else if m = mnemonicFill then some [.fill] else none
  | [m, n] => if m = mnemonicSamples then (readNat n).map expandSamples else none
  | [m, v, k1, c, k2, f] => if m = mnemonicUpdate ∧ k1 = [','] ∧ k2 = [','] then parseUpdate v c f else none
  | _ => none

/-- One line to commands; an empty line or a comment is no command. -/
def parseLine (line : List Char) : Option (List Instr) := parseTokens (tokensFrom [] (stripComment line))

/-- One line to command words. -/
def assembleLine (line : List Char) : Option (List Word) := (parseLine line).map (List.map encode)

/-- A program, one command per line. -/
def assemble : List (List Char) → Option (List Word)
  | [] => some []
  | line :: lines =>
    match assembleLine line, assemble lines with
    | some ws, some more => some (ws ++ more)
    | _, _ => none

end Sys2Proof.Machine
end

