-- ==== Sys2Proof/Tests/Slice0.lean ====
section
/-! SUPPORT. Tests whose expected results come from the spec's tables (`30_encoding.md` R79, R85; `95_test_vectors.md`), and for
every obligation that has hypotheses a witness that meets them. -/

namespace Sys2Proof.Machine.Tests

/-! ### Fixtures -/

/-- The fixture table `FX` of `95_test_vectors.md` (not the chip's table). -/
def fxTable (c : Fin 16) : TableEntry :=
  if c = 1 then ⟨[2, 1, 3, 1], 1⟩ else if c = 4 then ⟨[1, 1], 1⟩ else if c = 6 then ⟨[3, 2], 1⟩
  else if c = 9 then ⟨[1, 2, 1], 1⟩ else if c = 12 then ⟨[1, 1], 3⟩ else ⟨[1], 1⟩

/-- The reference rates over `FX`. -/
def fx : Config := ⟨48000, 31440, 128, fxTable, .binary64⟩

/-- A channel in the notation of `95_test_vectors.md`: `vol ctl frq | tick idx step lvl acc`. -/
def chan (vol ctl : Fin 16) (frq : Fin 32) (tick idx step : Nat) (lvl : Bool) (acc : Nat) : State :=
  { State.reset with
    volume := vol, control := ctl, frequencyDivider := frq, tickCounter := tick, sequenceIndex := idx, stepCounter := step,
    currentLevel := lvl, rateAccumulator := acc }

/-- The state of a `next` outcome. -/
def next? : Host.Outcome State Fault Refusal → Option State
  | .next t => some t
  | .fault _ => none
  | .refused _ => none

/-! ### WellFormed: one ill-formed term for each check (R73) -/

theorem test_wellFormed_refuses_volume_128 : (Instr.update 128 0 0).wellFormed = false := by decide
theorem test_wellFormed_refuses_volume_minus_129 : (Instr.update (-129) 0 0).wellFormed = false := by decide
theorem test_wellFormed_refuses_control_128 : (Instr.update 0 128 0).wellFormed = false := by decide
theorem test_wellFormed_refuses_divider_minus_129 : (Instr.update 0 0 (-129)).wellFormed = false := by decide
theorem test_wellFormed_takes_the_ends : (Instr.update (-128) 127 (-128)).wellFormed = true := by decide

/-! ### Configuration: one ill-formed configuration for each check (R9, R10; S3) -/

theorem test_config_takes_fx : fx.Wf := by decide
theorem test_config_refuses_empty_sequence : ¬ { fx with table := fun c => if c = 3 then ⟨[], 1⟩ else fxTable c }.Wf := by decide
theorem test_config_refuses_zero_run :
    ¬ { fx with table := fun c => if c = 3 then ⟨[2, 0, 1], 1⟩ else fxTable c }.Wf := by decide
theorem test_config_refuses_zero_divisor :
    ¬ { fx with table := fun c => if c = 3 then ⟨[1], 0⟩ else fxTable c }.Wf := by decide
theorem test_config_refuses_zero_rates : ¬ { fx with fOut := 0 }.Wf ∧ ¬ { fx with fNative := 0 }.Wf := by decide
theorem test_config_refuses_zero_block : ¬ { fx with block := 0 }.Wf := by decide
theorem test_config_refuses_narrow_format : ¬ { fx with floatFmt := ⟨3, 1⟩ }.Wf := by decide
theorem test_stored_entry_zero : TableEntry.ofStored [1, -1] 1 = some ⟨[1], 1⟩ := by decide
theorem test_stored_refuses_missing_sentinel : TableEntry.ofStored [1, 2] 1 = none := by decide

/-! ### Decoding: words written out from R71 and R72 (R79, V2) -/

theorem test_decode_update_fields :
    decodeWord (0b0001#4 ++ 0b0000#4 ++ 0b00001010#8 ++ 0b00000100#8 ++ 0b00000001#8) = .ok (.update 10 4 1) := by decide
theorem test_decode_update_negative :
    decodeWord (0b0001#4 ++ 0b0000#4 ++ 0b11111011#8 ++ 0b01100011#8 ++ 0b01111111#8) = .ok (.update (-5) 99 127) := by decide
theorem test_decode_sample : decodeWord (0b0010#4 ++ 0#28) = .ok .sample := by decide
theorem test_decode_fill : decodeWord (0b0011#4 ++ 0#28) = .ok .fill := by decide
theorem test_decode_reserved_zero_field : decodeWord 0x11000000#32 = .error (.reservedCommand 0x11000000#32) := by decide
theorem test_decode_reserved_fill_operand : decodeWord 0x30000080#32 = .error (.reservedCommand 0x30000080#32) := by decide
theorem test_decode_bytes_little_endian :
    decodeBytes [0x01#8, 0x04#8, 0x0A#8, 0x10#8, 0x77#8] = .ok (.update 10 4 1, [0x77#8]) := by decide
theorem test_decode_bytes_truncated : decodeBytes [0x00#8, 0x00#8, 0x20#8] = .error (.truncatedWord 3) := by decide
theorem test_encode_update : encode (.update (-128) (-1) (-1)) = 0x1080FFFF#32 := by decide
theorem test_decodeTableWord_fill : decodeTableWord 32 0x30000000 = some .fill := by decide
theorem test_decodeTableWord_reserved : decodeTableWord 32 0x20000001 = none := by decide

/-! ### The assembler (R77 to R79) -/

theorem test_assemble_update :
    assembleLine ['U', 'P', 'D', 'A', 'T', 'E', ' ', '-', '5', ',', ' ', '9', '9', ',', ' ', '1', '2', '7', ' ', ';', 'x'] =
      some [0x10FB637F#32] := by decide
theorem test_assemble_samples :
    assembleLine ['S', 'A', 'M', 'P', 'L', 'E', 'S', ' ', '3'] = some [0x20000000#32, 0x20000000#32, 0x20000000#32] := by decide
theorem test_assemble_program : assemble [['F', 'I', 'L', 'L'], [';'], ['S', 'A', 'M', 'P', 'L', 'E']] =
    some [0x30000000#32, 0x20000000#32] := by decide

/-! ### One step of each command -/

/-- V17: an update in mid-sequence. -/
theorem test_update_mid_sequence : next? (exec (.update 15 6 0) (chan 15 1 0 0 2 2 true 19920)) = some (chan 15 6 0 0 0 0 true 0) := by
  decide
/-- V1: `UPDATE 16, 16, 32` stores 15, 15, 31. -/
theorem test_update_clamps : next? (exec (.update 16 16 32) State.reset) = some (chan 15 15 31 0 0 0 true 0) := by decide
/-- S1: the first sample of control 0 at full volume. -/
theorem test_sample_first : next? (exec .sample (chan 15 0 0 0 0 0 true 0)) =
    some { chan 15 0 0 0 0 0 true 16560 with out := [15#4] } := by decide
/-- S1: the third sample runs no tick. -/
theorem test_sample_without_tick : next? (exec .sample (chan 15 0 0 0 0 0 true 33120)) =
    some { chan 15 0 0 0 0 0 true 1680 with out := [15#4] } := by decide
/-- P1: one block of control 0 leaves the accumulator at 7680. -/
theorem test_fill_block : (next? (exec .fill (chan 15 0 0 0 0 0 true 0))).map (fun t => (t.rateAccumulator, t.out)) =
    some (7680, List.replicate 128 15#4) := by decide +kernel
/-- P5: a reserved word is refused. -/
theorem test_step_refuses_reserved : (match step (presentWord 0x20000001#32 State.reset) with
    | .refused r => some r | _ => none) = some (.reservedCommand 0x20000001#32) := by decide
/-- R58, R184: a pending update goes before the command. -/
theorem test_step_drains_first :
    next? (step (presentWord 0x20000000#32 (deliver ⟨15, 0, 0⟩ (deliver ⟨3, 0, 9⟩ State.reset)))) =
      some { chan 15 0 0 0 0 0 true 16560 with out := [15#4] } := by decide

/-! ### The micro-operations -/

/-- V3: `[3, 2]`, third ADVANCE. -/
theorem test_advance_to_next_element : advance fx (chan 15 6 0 0 0 2 true 0) = chan 15 6 0 0 1 0 false 0 := by decide
/-- V3: `[3, 2]`, fifth ADVANCE, over the sentinel. -/
theorem test_advance_wraps : advance fx (chan 15 6 0 0 1 1 false 0) = chan 15 6 0 0 0 0 true 0 := by decide
/-- V4: divisor 3, the second tick holds the level. -/
theorem test_tick_holds : tick fx (chan 15 12 0 1 0 0 true 0) = chan 15 12 0 2 0 0 true 0 := by decide
/-- V4: divisor 3, the third tick advances. -/
theorem test_tick_advances : tick fx (chan 15 12 0 2 0 0 true 0) = chan 15 12 0 0 1 0 false 0 := by decide
/-- V6: the first sample of the toggling fixture is 0. -/
theorem test_sample_toggling : sample fx (chan 15 4 0 0 0 0 true 0) = { chan 15 4 0 0 1 0 false 16560 with out := [0#4] } := by decide
/-- V14: at rates 2 and 5 the first sample runs three ticks. -/
theorem test_sample_down_conversion :
    sample { fx with fOut := 2, fNative := 5 } (chan 15 4 0 0 0 0 true 0) = { chan 15 4 0 0 1 0 false 1 with out := [0#4] } := by decide
/-- V19: base tick 2 of the reference stream emits two samples. -/
theorem test_stream_second_tick :
    streamTick fx (chan 15 4 0 0 1 0 false 16560) = { chan 15 4 0 0 0 0 true 1680 with out := [15#4, 15#4] } := by decide
/-- P1 over `FX` with blocks of 4 samples: the parameters reach the step. -/
theorem test_program_with_other_block :
    next? (runProgram { fx with block := 4 } [0x100F0000#32, 0x30000000#32]) =
      some { chan 15 0 0 0 0 0 true 18240 with out := List.replicate 4 15#4 } := by decide
/-- R85's binary32 column at code 10, `0x3EAAAAAB`, little-endian (R54). -/
theorem test_sample_bytes : sampleBytes .binary32 10 = [0xAB#8, 0xAA#8, 0xAA#8, 0x3E#8] := by decide
/-- V18: `volume = 10`, level 1, in binary64; level 0 gives `+0`. -/
theorem test_render_ten :
    (render .binary64 true 10).pattern .binary64 = 0x3FD5555555555555 ∧ (render .binary64 false 10).pattern .binary64 = 0 := by decide

/-! ### Witnesses for the hypotheses of the obligations -/

theorem fx_inv_mid : Inv fx (chan 15 6 2 1 1 1 false 240) :=
  ⟨⟨by decide, by decide, by decide, by decide⟩, by decide, by decide⟩

theorem reference_wf : reference.Wf :=
  ⟨by decide, by decide, by decide, referenceTable_wf, openFloatFmt_wf _⟩

theorem reference_inv_reset : Inv reference State.reset :=
  ⟨⟨by decide, by decide, by decide, by decide⟩, by decide, by decide⟩

theorem witness_DecodeOfEncodeIsTheCommand : (Instr.update (-128) 127 (-1)).wellFormed = true := by decide

theorem witness_EncodeOfDecodeIsTheWord : decodeWord 0x10FB637F#32 = .ok (.update (-5) 99 127) := by decide

/-- One word for each verdict of the opcode map: the ends of UPDATE's range, the two single words, their neighbours. -/
theorem witness_OpcodeMapGivesFourVerdicts :
    (0x10000000#32 : Word).extractLsb' 24 8 = 0x10#8 ∧ (0x10FFFFFF#32 : Word).extractLsb' 24 8 = 0x10#8 ∧
    ((0x11000000#32 : Word).extractLsb' 24 8 ≠ 0x10#8 ∧ (0x11000000#32 : Word) ≠ 0x20000000#32 ∧
      (0x11000000#32 : Word) ≠ 0x30000000#32) ∧
    (∀ i ∈ [Instr.update 0 0 0, .sample, .fill], opcodeRow i ∈ opcodeRows ∧ (opcodeRow i).matchesWord (encode i) = true ∧
      decodeWord (encode i) = .ok i) := by decide

theorem witness_StoredTableEntriesReadBack :
    (⟨[2, 1, 3, 1], 1⟩ : TableEntry).Wf ∧ TableEntry.ofStored [2, 1, 3, 1, -1] 3 = some ⟨[2, 1, 3, 1], 3⟩ := by decide

theorem witness_StepRunsTheDecodedCommand :
    (presentWord 0x20000000#32 State.reset).commands = 0x20000000#32 :: [] ∧ decodeWord 0x20000000#32 = .ok .sample := by decide

theorem witness_StepWithoutCommandKeepsState : State.reset.commands = [] := by decide

theorem witness_StepRefusesReservedWordsOnly :
    (presentWord 0x40000000#32 State.reset).commands = 0x40000000#32 :: [] ∧
    decodeWord 0x40000000#32 = .error (.reservedCommand 0x40000000#32) ∧
    step (presentWord 0x40000000#32 State.reset) = .refused (.reservedCommand 0x40000000#32) :=
  ⟨by decide, by decide, rfl⟩

theorem witness_LegalStreamRunsToItsEnd : AllLegal (presentWord 0x30000000#32 State.reset) := by
  intro w hw
  exact ⟨.fill, by simp only [presentWord_commands, List.mem_cons] at hw; rcases hw with rfl | hw; · decide
                   · cases hw⟩

/-- One state for each of the three commands. -/
theorem witness_StepTakesOneWordAndAppends :
    ∀ i ∈ [Instr.update 15 0 0, .sample, .fill], (presentWord (encode i) State.reset).commands = encode i :: [] ∧
      decodeWord (encode i) = .ok i ∧ ∃ t, step (presentWord (encode i) State.reset) = .next t := by
  simp only [List.forall_mem_cons, List.not_mem_nil, false_imp_iff, implies_true, and_true]
  exact ⟨⟨rfl, by decide, _, rfl⟩, ⟨rfl, by decide, _, rfl⟩, rfl, by decide, _, rfl⟩

/-- Each clause of the clamp at the ends of a range. -/
theorem witness_ClampSaturatesEachField :
    (0 : Int) ≤ 15 ∧ clamp (-1) 0 15 = 0 ∧ clamp 16 0 15 = 15 ∧ clamp 0 0 15 = 0 ∧ clamp 15 0 15 = 15 := by decide

theorem witness_UpdateForgetsEarlierUpdates :
    (∃ t, exec (.update 1 2 3) State.reset = .next t) ∧ clampOperands 15 0 0 = clampOperands 127 (-3) (-128) ∧
    (State.reset ≠ chan 15 6 2 1 1 1 false 240 ∧ SameInputs State.reset (chan 15 6 2 1 1 1 false 240) ∧
      (chan 15 6 2 1 1 1 false 240).out = State.reset.out) :=
  ⟨⟨_, rfl⟩, by decide, by decide, ⟨rfl, rfl⟩, rfl⟩

theorem witness_PowerOnIsUpdateOfZeros : State.reset.pend = [] ∧ State.reset.commands = [] ∧ State.reset.out = [] := by decide

theorem witness_DrainingLeavesTheNewestUpdate :
    State.reset.pend = [] ∧ (deliver ⟨15, 0, 0⟩ (deliver ⟨3, 4, 5⟩ State.reset)).pend = [⟨3, 4, 5⟩] ++ [⟨15, 0, 0⟩] := by decide

theorem witness_PendingUpdatesActAsCommands :
    (∀ u ∈ (presentWord 0x30000000#32 (deliver ⟨-128, 127, 3⟩ State.reset)).pend,
      (Instr.update u.volume u.control u.frequencyDivider).wellFormed = true) ∧
    (presentWord 0x30000000#32 (deliver ⟨-128, 127, 3⟩ State.reset)).commands = 0x30000000#32 :: [] ∧
    decodeWord 0x30000000#32 = .ok .fill := by decide

theorem witness_UpdateDeliveredDuringSynthesisWaits :
    (∃ t, exec .sample State.reset = .next t) ∧ ∃ t, exec .fill State.reset = .next t := ⟨⟨_, rfl⟩, ⟨_, rfl⟩⟩

theorem witness_NonIntegerFieldsAreRefused : ((3 : Rat) / 2).den ≠ 1 ∧ (7 : Rat).den = 1 := by decide +kernel

theorem witness_LookupGivesTerminatedSequence :
    fx.Wf ∧ 0 ≤ seqLen fx (chan 0 9 0 0 0 0 true 0).control ∧ 2 < seqLen fx (chan 0 9 0 0 0 0 true 0).control := by decide

theorem witness_PeriodIsPositiveAndBounded : fx.Wf ∧ divAt fx 12 ≤ 3 ∧ period fx 12 31 = 96 := by decide

/-- Both clauses, at the last tick before the period and at the period. -/
theorem witness_TickCountsToThePeriod :
    (94 + 1 ≠ (fx.table 12).div * ((31 : Fin 32).val + 1)) ∧ (95 + 1 = (fx.table 12).div * ((31 : Fin 32).val + 1)) := by decide

/-- The four clauses over `[3, 2]`: inside a run, at its end, at the end of the last run, and (in a state no run reaches) on the
sentinel. -/
theorem witness_AdvanceWalksTheSequence :
    ((1 : Int) + 1 ≠ seqAt fx 6 0 ∧ seqAt fx 6 0 ≠ SENTINEL) ∧ ((2 : Int) + 1 = seqAt fx 6 0 ∧ seqAt fx 6 1 ≠ SENTINEL) ∧
    ((1 : Int) + 1 = seqAt fx 6 1 ∧ seqAt fx 6 2 = SENTINEL) ∧ ((0 : Int) + 1 ≠ seqAt fx 6 2 ∧ seqAt fx 6 2 = SENTINEL) := by decide

/-- Inside a SAMPLE at rates 2 and 5: after two ticks the accumulator is 4, above `F_OUT`. -/
theorem witness_TickKeepsSequencerBounds :
    { fx with fOut := 2, fNative := 5 }.Wf ∧ SeqInv { fx with fOut := 2, fNative := 5 } (chan 15 6 2 2 0 0 true 4) :=
  ⟨by decide, by decide, by decide, by decide, by decide⟩

theorem witness_TicksHaveClosedForm : fx.Wf ∧ FreshPhase (chan 15 6 2 0 0 0 true 0) :=
  ⟨by decide, rfl, rfl, rfl, rfl, rfl⟩

/-- The second clause at its last base tick: `P * r0 = 9` for `[3, 2]` and a divider of 2. -/
theorem witness_LevelIsPeriodicFromLevelOne :
    fx.Wf ∧ FreshPhase (chan 15 6 2 0 0 0 true 0) ∧ ((8 : Nat) : Int) < period fx 6 2 * seqAt fx 6 0 :=
  ⟨by decide, ⟨rfl, rfl, rfl, rfl, rfl⟩, by decide⟩

/-- Both clauses at the accumulator values where they meet. -/
theorem witness_SampleCompletesWithAtMostOneTick :
    (chan 15 0 0 0 0 0 true 31439).rateAccumulator < 31440 ∧ 31440 ≤ (chan 15 0 0 0 0 0 true 31440).rateAccumulator := by decide

theorem witness_SampleRunsTheTicksThatAreDue : 1 ≤ { fx with fOut := 1, fNative := 3 }.fOut := by decide

theorem witness_AccumulatorStaysBelowSumOfRates : fx.Wf ∧ Inv fx (chan 15 6 2 1 1 1 false 240) := ⟨by decide, fx_inv_mid⟩

theorem witness_SynthesisFrame : (Instr.sample = .sample ∨ Instr.sample = .fill) ∧ (Instr.fill = .sample ∨ Instr.fill = .fill) := by
  decide

theorem witness_OnlyUpdateWritesRegisters :
    (∃ t, step (presentWord 0x20000000#32 State.reset) = .next t) ∧ (presentWord 0x20000000#32 State.reset).pend = [] ∧
    (∀ w rest v c f, (presentWord 0x20000000#32 State.reset).commands = w :: rest → decodeWord w ≠ .ok (.update v c f)) := by
  refine ⟨⟨_, rfl⟩, rfl, ?_⟩
  rintro w rest v c f h
  obtain ⟨rfl, -⟩ := List.cons.inj h
  rw [show decodeWord 0x20000000#32 = .ok .sample by decide]
  intro h'
  cases h'

theorem witness_VolumeZeroIsSilent : (chan 0 6 2 1 1 1 false 240).volume = 0 := by decide

theorem witness_CountingLawOfSamples : fx.Wf ∧ FreshPhase (applyUpdate 10 4 1 State.reset) :=
  ⟨by decide, rfl, rfl, rfl, rfl, rfl⟩

theorem witness_StreamEmitsAtTheRatioOfRates : fx.Wf ∧ FreshPhase (applyUpdate 15 1 0 State.reset) :=
  ⟨by decide, rfl, rfl, rfl, rfl, rfl⟩

theorem witness_SamplesAreTheReferenceStream : { fx with fOut := 2, fNative := 5 }.Wf := by decide

/-- The clauses for one run length (control 0), and for two or more (control 6) at reference rates, where `n0 = 13` for a divider
of 2 (V10, V15). -/
theorem witness_FirstTransitionComesAtSampleN0 :
    fx.Wf ∧ FreshPhase (chan 15 6 2 0 0 0 true 0) ∧ FreshPhase (chan 15 0 0 0 0 0 true 0) ∧
    seqAt fx 6 0 = ((3 : Nat) : Int) ∧ seqAt fx 0 0 = ((1 : Nat) : Int) ∧ seqLen fx 0 = 1 ∧ 2 ≤ seqLen fx 6 ∧
    fx.fNative ≤ fx.fOut ∧ (period fx 6 2 * 3 - 1) * fx.fOut / fx.fNative + 1 = 13 :=
  ⟨by decide, ⟨rfl, rfl, rfl, rfl, rfl⟩, ⟨rfl, rfl, rfl, rfl, rfl⟩, by decide, by decide, by decide, by decide, by decide, by decide⟩

theorem witness_ResetMeetsTheInvariant : fx.Wf := by decide

theorem witness_StepKeepsTheInvariant :
    Inv reference State.reset ∧ ∃ t, step (presentWord 0x30000000#32 State.reset) = .next t := ⟨reference_inv_reset, _, rfl⟩

theorem witness_CommandsKeepTheInvariantAtAnyRates : fx.Wf ∧ Inv fx (chan 15 6 2 1 1 1 false 240) := ⟨by decide, fx_inv_mid⟩

theorem witness_ConfigurationIsCheckedAtPowerOn : fx.Wf ∧ ¬ { fx with fOut := 0 }.Wf := by decide

theorem witness_RenderingRoundsToNearest :
    FloatFmt.binary32.Wf ∧ FloatFmt.Wf ⟨4, 1⟩ ∧ (1#4 : SampleCode) ≠ 0 ∧ (15#4 : SampleCode) ≠ 0 := by decide

theorem witness_StoredBytesAreLittleEndian :
    FloatFmt.binary32.Wf ∧ FloatFmt.Wf ⟨4, 1⟩ ∧ 3 < byteCount .binary32 ∧ 7 < byteCount .binary64 := by decide

/-- A state for each clause: no word, a command, a reserved word. -/
theorem witness_StepAtAnyParametersRunsTheDecodedCommand :
    State.reset.commands = [] ∧
    (presentWord 0x30000000#32 State.reset).commands = 0x30000000#32 :: [] ∧ decodeWord 0x30000000#32 = .ok .fill ∧
    (presentWord 0x40000000#32 State.reset).commands = 0x40000000#32 :: [] ∧
    decodeWord 0x40000000#32 = .error (.reservedCommand 0x40000000#32) := by decide

theorem witness_CommandsCompleteAtAnyParameters : 1 ≤ { fx with fOut := 1, fNative := 3, block := 7 }.fOut := by decide

/-- Programs P1 and P5, and an ill-formed configuration. -/
theorem witness_ProgramRunsFromPowerOn :
    fx.Wf ∧ (decodeWord 0x100F0000#32 = .ok (.update 15 0 0) ∧ decodeWord 0x30000000#32 = .ok .fill) ∧
    [0x100F0400#32, 0x20000001#32, 0x20000000#32] = [0x100F0400#32] ++ 0x20000001#32 :: [0x20000000#32] ∧
    (decodeWord 0x100F0400#32 = .ok (.update 15 4 0) ∧
      decodeWord 0x20000001#32 = .error (.reservedCommand 0x20000001#32)) ∧
    ¬ { fx with fNative := 0 }.Wf :=
  ⟨by decide, by decide, rfl, by decide, by decide⟩

theorem witness_StepKeepsTheInvariantAtAnyParameters :
    fx.Wf ∧ Inv fx (presentWord 0x20000000#32 (chan 15 6 2 1 1 1 false 240)) ∧
      ∃ t, stepIn fx (presentWord 0x20000000#32 (chan 15 6 2 1 1 1 false 240)) = .next t :=
  ⟨by decide, ⟨⟨by decide, by decide, by decide, by decide⟩, by decide, by decide⟩, _, rfl⟩

theorem witness_ChannelsDoNotInterfere :
    ∃ v' : Channels 2, runSchedule fx [0, 1, 0]
      #v[presentWord 0x20000000#32 State.reset, presentWord 0x100F0000#32 State.reset] = .next v' := ⟨_, rfl⟩

theorem witness_ChannelsDoNotInterfere_alone (i : Fin 2) :
    ∃ t, runIn fx (([0, 1, 0] : List (Fin 2)).count i)
      (#v[presentWord 0x20000000#32 State.reset, presentWord 0x100F0000#32 State.reset] : Channels 2)[i] = .next t := by
  match i with
  | 0 => exact ⟨_, rfl⟩
  | 1 => exact ⟨_, rfl⟩

end Sys2Proof.Machine.Tests
end

section
/-! The clamp of an operand (`00_scope.md` R15, `40_register_update.md` R100): its three cases, its idempotence, and the value of
each field of CLAMP. -/

namespace Sys2Proof.Machine

theorem clamp_of_lt {v lo : Int} (hi : Int) (h : v < lo) : clamp v lo hi = lo := if_pos h

theorem clamp_of_gt {v lo hi : Int} (hle : lo ≤ hi) (h : hi < v) : clamp v lo hi = hi := by
  rw [clamp_eq_max_min v lo hi hle, min_eq_right h.le, max_eq_right hle]

theorem clamp_of_mem {v lo hi : Int} (hlo : lo ≤ v) (hhi : v ≤ hi) : clamp v lo hi = v := by
  rw [clamp_eq_max_min v lo hi (hlo.trans hhi), min_eq_left hhi, max_eq_right hlo]

theorem le_clamp (v : Int) {lo hi : Int} (hle : lo ≤ hi) : lo ≤ clamp v lo hi := by
  rw [clamp_eq_max_min v lo hi hle]
  exact le_max_left _ _

theorem clamp_le (v : Int) {lo hi : Int} (hle : lo ≤ hi) : clamp v lo hi ≤ hi := by
  rw [clamp_eq_max_min v lo hi hle]
  exact max_le hle (min_le_right _ _)

/-- A clamped value lies in the range, where clamping changes nothing. -/
theorem clamp_clamp (v : Int) {lo hi : Int} (hle : lo ≤ hi) : clamp (clamp v lo hi) lo hi = clamp v lo hi :=
  clamp_of_mem (le_clamp v hle) (clamp_le v hle)

/-- The natural-number field loses nothing of the clamped integer. -/
theorem clampTo_val_eq_clamp (m : Nat) (v : Int) : ((clampTo m v).val : Int) = clamp v 0 m := by
  rw [clampTo_val, clamp_eq_max_min v 0 m (Int.natCast_nonneg m)]

/-- Settles O11, by the three cases of the clamp and the value of `clampTo` at each register's maximum. -/
theorem clampSaturatesEachField : Obligations.ClampSaturatesEachField :=
  ⟨fun v _ hi hle => ⟨clamp_of_lt hi, clamp_of_gt hle, clamp_of_mem, clamp_clamp v hle⟩,
    fun v c f => ⟨clampTo_val_eq_clamp VOL_MAX v, clampTo_val_eq_clamp CTL_MAX c, clampTo_val_eq_clamp FRQ_MAX f⟩⟩

end Sys2Proof.Machine
end

section
/-! The opcode map (`30_encoding.md` R75): the decoder by its four conditions on the whole word, and the rows of
`opcode_table.json` by the same conditions. -/

namespace Sys2Proof

theorem append_eq_append_iff {m n : Nat} {a c : BitVec m} {b d : BitVec n} : a ++ b = c ++ d ↔ a = c ∧ b = d := by
  constructor
  · intro h
    constructor
    · simpa only [BitVec.extractLsb'_append_eq_left] using congrArg (BitVec.extractLsb' n m) h
    · simpa only [BitVec.extractLsb'_append_eq_right] using congrArg (BitVec.extractLsb' 0 n) h
  · rintro ⟨rfl, rfl⟩
    rfl

/-! ### The conditions of R75, over the fields of R71 and R72 -/

theorem opField_append_zeroFieldU (w : Word) : opField w ++ zeroFieldU w = w.extractLsb' 24 8 :=
  BitVec.extractLsb'_append_extractLsb'_eq_extractLsb' (by rfl)

theorem opField_append_zeroFieldZ (w : Word) : opField w ++ zeroFieldZ w = w := by
  rw [opField, zeroFieldZ, BitVec.extractLsb'_append_extractLsb'_eq_extractLsb' (by rfl), BitVec.extractLsb'_eq_self]

theorem bits31to24_eq_iff_fields (w : Word) (op zero : BitVec 4) :
    w.extractLsb' 24 8 = op ++ zero ↔ opField w = op ∧ zeroFieldU w = zero := by
  rw [← opField_append_zeroFieldU, append_eq_append_iff]

theorem eq_formatZ_iff_fields (w : Word) (op : BitVec 4) : w = formatZ op ↔ opField w = op ∧ zeroFieldZ w = 0#28 := by
  rw [formatZ, ← append_eq_append_iff, opField_append_zeroFieldZ]

/-- The decoder tests the opcode first and the `zero` field after it; R75 tests the two at once. -/
theorem decodeWord_eq (w : Word) :
    decodeWord w =
      if w.extractLsb' 24 8 = 0x10#8 then .ok (updateOperands w)
      else if w = 0x20000000#32 then .ok .sample
      else if w = 0x30000000#32 then .ok .fill
      else .error (.reservedCommand w) := by
  have hupdate := bits31to24_eq_iff_fields w 0b0001#4 0#4
  have hsample := eq_formatZ_iff_fields w 0b0010#4
  have hfill := eq_formatZ_iff_fields w 0b0011#4
  rw [show 0b0001#4 ++ 0#4 = 0x10#8 by decide] at hupdate
  rw [show formatZ 0b0010#4 = 0x20000000#32 by decide] at hsample
  rw [show formatZ 0b0011#4 = 0x30000000#32 by decide] at hfill
  simp only [hupdate, hsample, hfill, decodeWord]
  by_cases h1 : opField w = 0b0001#4
  · simp [h1]
  by_cases h2 : opField w = 0b0010#4
  · simp [h2]
  by_cases h3 : opField w = 0b0011#4
  · simp [h3]
  · simp [h1, h2, h3]

/-! ### The four verdicts -/

theorem decodeWord_of_bits31to24 {w : Word} (h : w.extractLsb' 24 8 = 0x10#8) : decodeWord w = .ok (updateOperands w) := by
  rw [decodeWord_eq, if_pos h]

theorem decodeWord_sampleWord : decodeWord 0x20000000#32 = .ok .sample := by decide

theorem decodeWord_fillWord : decodeWord 0x30000000#32 = .ok .fill := by decide

theorem decodeWord_of_noPattern {w : Word} (hu : w.extractLsb' 24 8 ≠ 0x10#8) (hs : w ≠ 0x20000000#32)
    (hf : w ≠ 0x30000000#32) : decodeWord w = .error (.reservedCommand w) := by
  rw [decodeWord_eq, if_neg hu, if_neg hs, if_neg hf]

/-! ### The rows -/

theorem matchesWord_iff (r : OpcodeRow) (w : Word) : r.matchesWord w = true ↔ w &&& r.mask = r.value := beq_iff_eq

/-- The mask of `UPDATE` keeps bits 31:24 and clears the 24 operand bits. -/
theorem and_updateMask (w : Word) : w &&& 0xFF000000#32 = w.extractLsb' 24 8 ++ 0#24 := by
  have hsplit : w.extractLsb' 24 8 ++ w.extractLsb' 0 24 = w := by
    rw [BitVec.extractLsb'_append_extractLsb'_eq_extractLsb' (by rfl), BitVec.extractLsb'_eq_self]
  calc w &&& 0xFF000000#32
      = (w.extractLsb' 24 8 ++ w.extractLsb' 0 24) &&& (BitVec.allOnes 8 ++ 0#24) := by rw [hsplit]; rfl
    _ = w.extractLsb' 24 8 ++ 0#24 := by rw [BitVec.and_append, BitVec.and_allOnes, BitVec.and_zero]

theorem updateRow_matchesWord_iff (v c f : Int) (w : Word) :
    (opcodeRow (.update v c f)).matchesWord w = true ↔ w.extractLsb' 24 8 = 0x10#8 := by
  rw [matchesWord_iff, opcodeRow, and_updateMask, show 0x10000000#32 = 0x10#8 ++ 0#24 by decide, BitVec.append_left_inj]

theorem sampleRow_matchesWord_iff (w : Word) : (opcodeRow .sample).matchesWord w = true ↔ w = 0x20000000#32 := by
  rw [matchesWord_iff, opcodeRow, show 0xFFFFFFFF#32 = BitVec.allOnes 32 by decide, BitVec.and_allOnes]

theorem fillRow_matchesWord_iff (w : Word) : (opcodeRow .fill).matchesWord w = true ↔ w = 0x30000000#32 := by
  rw [matchesWord_iff, opcodeRow, show 0xFFFFFFFF#32 = BitVec.allOnes 32 by decide, BitVec.and_allOnes]

/-! ### The rows are what the decoder reads -/

theorem matchesWord_of_decodeWord {w : Word} {i : Instr} (h : decodeWord w = .ok i) : (opcodeRow i).matchesWord w = true := by
  rw [decodeWord_eq] at h
  split_ifs at h with hu hs hf <;> cases h
  · exact (updateRow_matchesWord_iff _ _ _ w).2 hu
  · exact (sampleRow_matchesWord_iff w).2 hs
  · exact (fillRow_matchesWord_iff w).2 hf

theorem decodeWord_of_matchesWord {w : Word} {i : Instr} (h : (opcodeRow i).matchesWord w = true) :
    ∃ j, decodeWord w = .ok j ∧ opcodeRow j = opcodeRow i := by
  cases i with
  | update v c f => exact ⟨_, decodeWord_of_bits31to24 ((updateRow_matchesWord_iff v c f w).1 h), rfl⟩
  | sample =>
    obtain rfl := (sampleRow_matchesWord_iff w).1 h
    exact ⟨_, decodeWord_sampleWord, rfl⟩
  | fill =>
    obtain rfl := (fillRow_matchesWord_iff w).1 h
    exact ⟨_, decodeWord_fillWord, rfl⟩

theorem exists_instr_of_mem_opcodeRows {r : OpcodeRow} (h : r ∈ opcodeRows) : ∃ i, opcodeRow i = r := by
  simp only [opcodeRows, List.mem_cons, List.not_mem_nil, or_false] at h
  obtain rfl | rfl | rfl := h <;> exact ⟨_, rfl⟩

/-- The patterns are disjoint since the decoder gives a word one verdict, whose row is every row that matches. -/
theorem opcodeRows_disjoint {w : Word} {r r' : OpcodeRow} (hr : r ∈ opcodeRows) (hr' : r' ∈ opcodeRows)
    (h : r.matchesWord w = true) (h' : r'.matchesWord w = true) : r = r' := by
  obtain ⟨i, rfl⟩ := exists_instr_of_mem_opcodeRows hr
  obtain ⟨i', rfl⟩ := exists_instr_of_mem_opcodeRows hr'
  obtain ⟨j, hj, hrow⟩ := decodeWord_of_matchesWord h
  obtain ⟨j', hj', hrow'⟩ := decodeWord_of_matchesWord h'
  obtain rfl : j = j' := Except.ok.inj (hj.symm.trans hj')
  exact hrow.symm.trans hrow'

/-- Settles O3, from the decoder's equation by the conditions of R75 and the agreement of rows and decoder. -/
theorem opcodeMapGivesFourVerdicts : Obligations.OpcodeMapGivesFourVerdicts := by
  intro w
  refine ⟨decodeWord_of_bits31to24, ?_, ?_, decodeWord_of_noPattern, fun _ hr _ hr' => opcodeRows_disjoint hr hr', fun i => ?_⟩
  · rintro rfl
    exact decodeWord_sampleWord
  · rintro rfl
    exact decodeWord_fillWord
  · constructor
    · rintro ⟨j, hj, hrow⟩
      exact hrow ▸ matchesWord_of_decodeWord hj
    · exact decodeWord_of_matchesWord

end Sys2Proof
end

section
/-! What `UPDATE` writes and what it keeps (`40_register_update.md` R101): the registers as clamped integers, the reset generator,
the untouched ports. -/

namespace Sys2Proof.Machine

theorem applyUpdate_registers_eq_clamp (v c f : Int) (s : State) :
    ((applyUpdate v c f s).volume.val : Int) = clamp v 0 15 ∧ ((applyUpdate v c f s).control.val : Int) = clamp c 0 15 ∧
      ((applyUpdate v c f s).frequencyDivider.val : Int) = clamp f 0 31 := by
  rw [applyUpdate_volume, applyUpdate_control, applyUpdate_frequencyDivider]
  exact ⟨clampTo_val_eq_clamp 15 v, clampTo_val_eq_clamp 15 c, clampTo_val_eq_clamp 31 f⟩

/-- Settles O12: `UPDATE` answers `applyUpdate`, whose registers hold the clamped operands and whose other fields are given by
its field lemmas. -/
theorem updateResetsAndStores : Obligations.UpdateResetsAndStores := by
  intro v c f s
  obtain ⟨hvolume, hcontrol, hdivider⟩ := applyUpdate_registers_eq_clamp v c f s
  exact ⟨applyUpdate v c f s, exec_update v c f s, hvolume, hcontrol, hdivider,
    applyUpdate_tickCounter v c f s, applyUpdate_sequenceIndex v c f s, applyUpdate_stepCounter v c f s,
    applyUpdate_currentLevel v c f s, applyUpdate_rateAccumulator v c f s,
    applyUpdate_out v c f s, applyUpdate_pend v c f s, applyUpdate_commands v c f s⟩

end Sys2Proof.Machine
end

section
/-! LOOKUP, TICK and ADVANCE (`41_tone_sequencer.md` R121 to R125): the one sentinel of a stored sequence, the two outcomes of a
TICK, and the two outcomes of each step of ADVANCE, from which its four cases follow. -/

namespace Sys2Proof.Machine

/-! ### LOOKUP -/

theorem seqAt_eq_sentinel_iff_of_le {cfg : Config} {c : Fin 16} {i : Nat} (h : i ≤ seqLen cfg c) :
    seqAt cfg c i = SENTINEL ↔ i = seqLen cfg c :=
  seqAt_eq_sentinel.trans h.ge_iff_eq

/-- Settles O21: run lengths are positive at a well-formed configuration, there is at least one, and the sentinel stands from
`len_c` on. -/
theorem lookupGivesTerminatedSequence : Obligations.LookupGivesTerminatedSequence := by
  intro cfg s hwf
  exact ⟨one_le_seqAt hwf (one_le_seqLen hwf s.control), fun _ => seqAt_eq_sentinel_iff_of_le,
    fun _ => one_le_seqAt hwf, one_le_divAt hwf s.control⟩

/-! ### TICK -/

theorem tick_of_ne_period {cfg : Config} {s : State} (h : s.tickCounter + 1 ≠ period cfg s.control s.frequencyDivider) :
    tick cfg s = { s with tickCounter := s.tickCounter + 1 } := if_neg h

theorem tick_of_eq_period {cfg : Config} {s : State} (h : s.tickCounter + 1 = period cfg s.control s.frequencyDivider) :
    tick cfg s = advance cfg { s with tickCounter := 0 } := if_pos h

/-- Settles O23: the two outcomes of TICK's comparison with the period. -/
theorem tickCountsToThePeriod : Obligations.TickCountsToThePeriod :=
  fun _ _ => ⟨tick_of_ne_period, tick_of_eq_period⟩

/-! ### ADVANCE -/

theorem levelOf_eq_decide (i : Nat) : levelOf i = decide (i % 2 = 0) := rfl

theorem advanceStep_of_ne {seq : Nat → Int} {s : State} (h : (s.stepCounter : Int) + 1 ≠ seq s.sequenceIndex) :
    advanceStep seq s = { s with stepCounter := s.stepCounter + 1 } := if_neg h

theorem advanceStep_of_eq {seq : Nat → Int} {s : State} (h : (s.stepCounter : Int) + 1 = seq s.sequenceIndex) :
    advanceStep seq s = { s with stepCounter := 0, sequenceIndex := s.sequenceIndex + 1 } := if_pos h

theorem wrapIndex_of_ne {seq : Nat → Int} {s : State} (h : seq s.sequenceIndex ≠ SENTINEL) : wrapIndex seq s = s := if_neg h

theorem wrapIndex_of_eq {seq : Nat → Int} {s : State} (h : seq s.sequenceIndex = SENTINEL) :
    wrapIndex seq s = { s with sequenceIndex := 0 } := if_pos h

/-- Settles O24: the outcome of step b, then that of step c at the index step b leaves, then the level of the final index. -/
theorem advanceWalksTheSequence : Obligations.AdvanceWalksTheSequence := by
  intro cfg s seq
  refine ⟨fun hstep hwrap => ?_, fun hstep hwrap => ?_, fun hstep hwrap => ?_, fun hstep hwrap => ?_⟩
  · rw [advance, advanceStep_of_ne hstep, wrapIndex_of_ne, State.relevel, levelOf_eq_decide]
    exact hwrap
  · rw [advance, advanceStep_of_eq hstep, wrapIndex_of_ne, State.relevel, levelOf_eq_decide]
    exact hwrap
  · rw [advance, advanceStep_of_eq hstep, wrapIndex_of_eq, State.relevel, levelOf_zero]
    exact hwrap
  · rw [advance, advanceStep_of_ne hstep, wrapIndex_of_eq, State.relevel, levelOf_zero]
    exact hwrap

end Sys2Proof.Machine
end

section
/-! EMIT's sample (`42_rate_converter.md` R150), and runs of samples cut into blocks (R155, R157): a sample does not read the
block size. -/

namespace Sys2Proof.Machine

/-! ### EMIT -/

theorem sampleValue_nonneg (n : SampleCode) : 0 ≤ sampleValue n := by
  unfold sampleValue
  positivity

theorem sampleValue_le_half (n : SampleCode) : sampleValue n ≤ 1 / 2 := by
  have hn : (n.toNat : Rat) ≤ 15 := by exact_mod_cast Nat.le_of_lt_succ n.isLt
  calc (n.toNat : Rat) / (VOL_DEN : Rat) ≤ 15 / (VOL_DEN : Rat) := by gcongr
    _ = 1 / 2 := by norm_num [VOL_DEN]

theorem sampleValue_sampleNumerator (s : State) :
    sampleValue (sampleNumerator s) = ((levelValue s.currentLevel : Rat) * (s.volume.val : Rat)) / 30 := by
  rw [sampleValue, sampleNumerator_toNat, VOL_DEN, Nat.cast_mul, Nat.cast_ofNat]

/-- Settles O28: the code is `sampleNumerator`, which loses nothing of level times volume, and any code's value is in
[0, 1/2]. -/
theorem emitAppendsLevelTimesVolume : Obligations.EmitAppendsLevelTimesVolume := by
  intro s
  refine ⟨sampleNumerator s, rfl, sampleNumerator_toNat s, ?_, sampleValue_nonneg _, sampleValue_le_half _⟩
  rw [sampleValue_sampleNumerator, levelValue, Nat.cast_ite, Nat.cast_one, Nat.cast_zero]

/-! ### Blocks -/

theorem tickWhileDue_withBlock (cfg : Config) (b fuel : Nat) (s : State) :
    tickWhileDue { cfg with block := b } fuel s = tickWhileDue cfg fuel s := by
  induction fuel generalizing s with
  | zero => rfl
  | succ fuel ih =>
    have hpass : baseTick { cfg with block := b } s = baseTick cfg s := rfl
    rw [tickWhileDue, tickWhileDue, ih, hpass]

/-- SAMPLE does not read the block size. -/
theorem sample_withBlock (cfg : Config) (b : Nat) (s : State) : sample { cfg with block := b } s = sample cfg s := by
  rw [sample, tickWhileDue_withBlock]
  rfl

theorem samples_withBlock (cfg : Config) (b n : Nat) (s : State) :
    samples { cfg with block := b } n s = samples cfg n s := by
  induction n generalizing s with
  | zero => rfl
  | succ n ih => rw [samples, samples, ih, sample_withBlock]

theorem fill_withBlock (cfg : Config) (b : Nat) (s : State) : fill { cfg with block := b } s = samples cfg b s :=
  samples_withBlock cfg b b s

/-- Settles O38: a run of samples splits at any point, and a block is a run whose samples do not depend on its size. -/
theorem blockSplittingChangesNothing : Obligations.BlockSplittingChangesNothing := by
  intro cfg m n s
  refine ⟨samples_add cfg m n s, ?_⟩
  calc fill { cfg with block := 2 * cfg.block } s
      = samples cfg (cfg.block + cfg.block) s := by rw [fill_withBlock, Nat.two_mul]
    _ = fill cfg (fill cfg s) := samples_add cfg cfg.block cfg.block s

end Sys2Proof.Machine
end

section
/-! The sequencer inside its bounds (`41_tone_sequencer.md` R126, R127): the three outcomes of an ADVANCE, the place in the
waveform's cycle, and its closed form after any number of base ticks. -/

namespace Sys2Proof.Machine

@[simp] theorem tick_control (cfg : Config) (s : State) : (tick cfg s).control = s.control := ticks_control cfg 1 s
@[simp] theorem tick_frequencyDivider (cfg : Config) (s : State) : (tick cfg s).frequencyDivider = s.frequencyDivider :=
  ticks_frequencyDivider cfg 1 s

/-! ### The bounds are kept -/

theorem SeqInv.withTick {cfg : Config} {s : State} (h : SeqInv cfg s) {n : Nat}
    (hn : n < period cfg s.control s.frequencyDivider) : SeqInv cfg { s with tickCounter := n } :=
  ⟨hn, h.idx_lt, h.step_lt, h.level_eq⟩

/-- Inside the bounds ADVANCE counts a repetition, goes to the next element, or goes back to the first. -/
theorem advance_cases {cfg : Config} {s : State} (h : SeqInv cfg s) :
    ((s.stepCounter : Int) + 1 < seqAt cfg s.control s.sequenceIndex ∧
      advance cfg s = { s with stepCounter := s.stepCounter + 1, currentLevel := levelOf s.sequenceIndex }) ∨
    ((s.stepCounter : Int) + 1 = seqAt cfg s.control s.sequenceIndex ∧ s.sequenceIndex + 1 < seqLen cfg s.control ∧
      advance cfg s = { s with
        stepCounter := 0, sequenceIndex := s.sequenceIndex + 1, currentLevel := levelOf (s.sequenceIndex + 1) }) ∨
    ((s.stepCounter : Int) + 1 = seqAt cfg s.control s.sequenceIndex ∧ s.sequenceIndex + 1 = seqLen cfg s.control ∧
      advance cfg s = { s with stepCounter := 0, sequenceIndex := 0, currentLevel := levelOf 0 }) := by
  obtain ⟨hcount, hnext, hwrap, -⟩ := advanceWalksTheSequence cfg s
  have hidx := h.idx_lt
  have hstep := h.step_lt
  by_cases hend : (s.stepCounter : Int) + 1 = seqAt cfg s.control s.sequenceIndex
  · by_cases hlast : s.sequenceIndex + 1 < seqLen cfg s.control
    · exact .inr (.inl ⟨hend, hlast, hnext hend (by rw [Ne, seqAt_eq_sentinel]; omega)⟩)
    · exact .inr (.inr ⟨hend, by omega, hwrap hend (by rw [seqAt_eq_sentinel]; omega)⟩)
  · exact .inl ⟨by omega, hcount hend (by rw [Ne, seqAt_eq_sentinel]; omega)⟩

theorem advance_keeps_seqInv {cfg : Config} {s : State} (hwf : cfg.Wf) (h : SeqInv cfg s) : SeqInv cfg (advance cfg s) := by
  rcases advance_cases h with ⟨hstep, heq⟩ | ⟨-, hidx, heq⟩ | ⟨-, -, heq⟩ <;> rw [heq]
  · exact ⟨h.tick_lt, h.idx_lt, hstep, rfl⟩
  · exact ⟨h.tick_lt, hidx, one_le_seqAt hwf hidx, rfl⟩
  · exact ⟨h.tick_lt, one_le_seqLen hwf _, one_le_seqAt hwf (one_le_seqLen hwf _), rfl⟩

/-- Settles O25: a TICK short of the period counts up to it at most, and the one that reaches it runs ADVANCE from the restarted
counter. -/
theorem tickKeepsSequencerBounds : Obligations.TickKeepsSequencerBounds := by
  intro cfg s hwf h
  have htick := h.tick_lt
  by_cases hend : s.tickCounter + 1 = period cfg s.control s.frequencyDivider
  · rw [tick_of_eq_period hend]
    exact advance_keeps_seqInv hwf (h.withTick (period_pos hwf _ _))
  · rw [tick_of_ne_period hend]
    exact h.withTick (by omega)

theorem ticks_keeps_seqInv {cfg : Config} {s : State} (hwf : cfg.Wf) (h : SeqInv cfg s) (k : Nat) :
    SeqInv cfg (ticks cfg k s) := by
  induction k generalizing s with
  | zero => exact h
  | succ k ih => exact ih (tickKeepsSequencerBounds cfg s hwf h)

theorem FreshPhase.seqInv {cfg : Config} {s : State} (hwf : cfg.Wf) (h : FreshPhase s) : SeqInv cfg s := by
  obtain ⟨htick, hidx, hstep, hlvl, -⟩ := h
  have hlen := one_le_seqLen hwf s.control
  exact ⟨htick ▸ period_pos hwf _ _, hidx ▸ hlen, by rw [hstep, hidx]; exact one_le_seqAt hwf hlen, by rw [hlvl, hidx]; rfl⟩

theorem FreshPhase.rateAccumulator_eq_zero {s : State} (h : FreshPhase s) : s.rateAccumulator = 0 := by
  obtain ⟨-, -, -, -, hacc⟩ := h
  exact hacc

theorem freshPhase_applyUpdate (v c f : Int) (s : State) : FreshPhase (applyUpdate v c f s) := ⟨rfl, rfl, rfl, rfl, rfl⟩

/-! ### Sums of run lengths -/

@[simp] theorem prefixSum_zero (cfg : Config) (c : Fin 16) : prefixSum cfg c 0 = 0 := rfl

theorem prefixSum_seqLen (cfg : Config) (c : Fin 16) : prefixSum cfg c (seqLen cfg c) = cycleLength cfg c := by
  rw [prefixSum, seqLen, List.take_length, cycleLength]

theorem prefixSum_succ {cfg : Config} {c : Fin 16} {i : Nat} (h : i < seqLen cfg c) :
    (prefixSum cfg c (i + 1) : Int) = prefixSum cfg c i + seqAt cfg c i := by
  rw [seqAt_of_lt h, prefixSum, List.sum_take_succ _ _ h, prefixSum, Nat.cast_add]

theorem prefixSum_one {cfg : Config} {c : Fin 16} (h : 0 < seqLen cfg c) : (prefixSum cfg c 1 : Int) = seqAt cfg c 0 := by
  rw [prefixSum_succ h, prefixSum_zero, Nat.cast_zero, zero_add]

theorem prefixSum_mono (cfg : Config) (c : Fin 16) {i j : Nat} (h : i ≤ j) : prefixSum cfg c i ≤ prefixSum cfg c j :=
  (List.take_sublist_take_left h).sum_le_sum (fun _ _ => Nat.zero_le _)

theorem prefixSum_le_cycleLength {cfg : Config} {c : Fin 16} {i : Nat} (h : i ≤ seqLen cfg c) :
    prefixSum cfg c i ≤ cycleLength cfg c :=
  prefixSum_seqLen cfg c ▸ prefixSum_mono cfg c h

/-- A number of phase advances lies inside one run only. -/
theorem run_unique {cfg : Config} {c : Fin 16} {q i j : Nat} (hi : prefixSum cfg c i ≤ q) (hi' : q < prefixSum cfg c (i + 1))
    (hj : prefixSum cfg c j ≤ q) (hj' : q < prefixSum cfg c (j + 1)) : i = j := by
  by_contra hne
  rcases Nat.lt_or_gt_of_ne hne with h | h
  · have := prefixSum_mono cfg c (show i + 1 ≤ j from h)
    omega
  · have := prefixSum_mono cfg c (show j + 1 ≤ i from h)
    omega

/-! ### The place in the waveform's cycle -/

/-- The phase advances since the start of the waveform's cycle. -/
def phaseAdvances (cfg : Config) (s : State) : Nat := prefixSum cfg s.control s.sequenceIndex + s.stepCounter

/-- The base ticks since the start of the waveform's cycle. -/
def cycleTicks (cfg : Config) (s : State) : Nat :=
  period cfg s.control s.frequencyDivider * phaseAdvances cfg s + s.tickCounter

theorem phaseAdvances_lt_run {cfg : Config} {s : State} (h : SeqInv cfg s) :
    phaseAdvances cfg s < prefixSum cfg s.control (s.sequenceIndex + 1) := by
  have hsum := prefixSum_succ h.idx_lt
  have hstep := h.step_lt
  rw [phaseAdvances]
  omega

theorem phaseAdvances_lt_cycleLength {cfg : Config} {s : State} (h : SeqInv cfg s) :
    phaseAdvances cfg s < cycleLength cfg s.control :=
  (phaseAdvances_lt_run h).trans_le (prefixSum_le_cycleLength h.idx_lt)

/-- ADVANCE goes one place on in the cycle. -/
theorem phaseAdvances_advance {cfg : Config} {s : State} (hwf : cfg.Wf) (h : SeqInv cfg s) :
    phaseAdvances cfg (advance cfg s) = (phaseAdvances cfg s + 1) % cycleLength cfg s.control := by
  have hsum := prefixSum_succ h.idx_lt
  have hlt := phaseAdvances_lt_cycleLength (advance_keeps_seqInv hwf h)
  rcases advance_cases h with ⟨-, heq⟩ | ⟨hend, -, heq⟩ | ⟨hend, hlast, heq⟩ <;> rw [heq] at hlt ⊢ <;>
    simp only [phaseAdvances] at hlt ⊢
  · exact (Nat.mod_eq_of_lt hlt).symm
  · rw [show prefixSum cfg s.control (s.sequenceIndex + 1) + 0 = prefixSum cfg s.control s.sequenceIndex + s.stepCounter + 1
      by omega] at hlt ⊢
    exact (Nat.mod_eq_of_lt hlt).symm
  · rw [hlast, prefixSum_seqLen] at hsum
    rw [show prefixSum cfg s.control s.sequenceIndex + s.stepCounter + 1 = cycleLength cfg s.control by omega, Nat.mod_self,
      prefixSum_zero]

theorem cycleTicks_lt {cfg : Config} {s : State} (h : SeqInv cfg s) :
    cycleTicks cfg s < period cfg s.control s.frequencyDivider * cycleLength cfg s.control := by
  have hq := Nat.mul_le_mul_left (period cfg s.control s.frequencyDivider) (phaseAdvances_lt_cycleLength h)
  have htick := h.tick_lt
  rw [Nat.mul_succ] at hq
  rw [cycleTicks]
  omega

/-- TICK goes one base tick on in the cycle. -/
theorem cycleTicks_tick {cfg : Config} {s : State} (hwf : cfg.Wf) (h : SeqInv cfg s) :
    cycleTicks cfg (tick cfg s) =
      (cycleTicks cfg s + 1) % (period cfg s.control s.frequencyDivider * cycleLength cfg s.control) := by
  by_cases hend : s.tickCounter + 1 = period cfg s.control s.frequencyDivider
  · have h0 : SeqInv cfg { s with tickCounter := 0 } := h.withTick (period_pos hwf _ _)
    have hadv : phaseAdvances cfg (tick cfg s) = (phaseAdvances cfg s + 1) % cycleLength cfg s.control := by
      rw [tick_of_eq_period hend, phaseAdvances_advance hwf h0]
      rfl
    have ht : (tick cfg s).tickCounter = 0 := by rw [tick_of_eq_period hend, advance_tickCounter]
    rw [cycleTicks, hadv, ht, tick_control, tick_frequencyDivider, Nat.add_zero, ← Nat.mul_mod_mul_left]
    congr 1
    rw [cycleTicks, Nat.mul_succ]
    omega
  · have hlt := cycleTicks_lt (tickKeepsSequencerBounds cfg s hwf h)
    rw [tick_of_ne_period hend] at hlt ⊢
    exact (Nat.mod_eq_of_lt hlt).symm

theorem cycleTicks_ticks {cfg : Config} {s : State} (hwf : cfg.Wf) (h : SeqInv cfg s) (k : Nat) :
    cycleTicks cfg (ticks cfg k s) =
      (cycleTicks cfg s + k) % (period cfg s.control s.frequencyDivider * cycleLength cfg s.control) := by
  induction k with
  | zero => exact (Nat.mod_eq_of_lt (cycleTicks_lt h)).symm
  | succ k ih =>
    have hk := cycleTicks_tick hwf (ticks_keeps_seqInv hwf h k)
    rw [ih, ticks_control, ticks_frequencyDivider, Nat.mod_add_mod] at hk
    rw [ticks_add]
    exact hk

theorem FreshPhase.cycleTicks_eq_zero {s : State} (cfg : Config) (h : FreshPhase s) : cycleTicks cfg s = 0 := by
  obtain ⟨htick, hidx, hstep, -, -⟩ := h
  rw [cycleTicks, phaseAdvances, htick, hidx, hstep, prefixSum_zero]
  rfl

/-- The place in the cycle gives the tick counter and the phase advances back. -/
theorem tickCounter_eq_mod {cfg : Config} {s : State} (h : SeqInv cfg s) :
    s.tickCounter = cycleTicks cfg s % period cfg s.control s.frequencyDivider := by
  rw [cycleTicks, Nat.mul_add_mod, Nat.mod_eq_of_lt h.tick_lt]

theorem phaseAdvances_eq_div {cfg : Config} {s : State} (h : SeqInv cfg s) :
    phaseAdvances cfg s = cycleTicks cfg s / period cfg s.control s.frequencyDivider := by
  have htick := h.tick_lt
  rw [cycleTicks, Nat.mul_add_div (by omega), Nat.div_eq_of_lt htick, Nat.add_zero]

/-! ### From a reset -/

section
variable {cfg : Config} {s : State} (hwf : cfg.Wf) (hs : FreshPhase s)
include hwf hs

theorem cycleTicks_ticks_of_fresh (k : Nat) :
    cycleTicks cfg (ticks cfg k s) = k % (period cfg s.control s.frequencyDivider * cycleLength cfg s.control) := by
  rw [cycleTicks_ticks hwf (hs.seqInv hwf), hs.cycleTicks_eq_zero, Nat.zero_add]

theorem tickCounter_ticks_of_fresh (k : Nat) :
    (ticks cfg k s).tickCounter = k % period cfg s.control s.frequencyDivider := by
  have h := tickCounter_eq_mod (ticks_keeps_seqInv hwf (hs.seqInv hwf) k)
  rwa [ticks_control, ticks_frequencyDivider, cycleTicks_ticks_of_fresh hwf hs, Nat.mod_mul_right_mod] at h

theorem phaseAdvances_ticks_of_fresh (k : Nat) :
    phaseAdvances cfg (ticks cfg k s) = k / period cfg s.control s.frequencyDivider % cycleLength cfg s.control := by
  have h := phaseAdvances_eq_div (ticks_keeps_seqInv hwf (hs.seqInv hwf) k)
  rwa [ticks_control, ticks_frequencyDivider, cycleTicks_ticks_of_fresh hwf hs, Nat.mod_mul_right_div_self] at h

/-- The run that holds a number of phase advances after a reset is the one the index stands on. -/
theorem sequenceIndex_ticks_of_fresh {k i : Nat}
    (hlo : prefixSum cfg s.control i ≤ k / period cfg s.control s.frequencyDivider % cycleLength cfg s.control)
    (hhi : k / period cfg s.control s.frequencyDivider % cycleLength cfg s.control < prefixSum cfg s.control (i + 1)) :
    (ticks cfg k s).sequenceIndex = i := by
  have hrun := phaseAdvances_lt_run (ticks_keeps_seqInv hwf (hs.seqInv hwf) k)
  have hq := phaseAdvances_ticks_of_fresh hwf hs k
  rw [hq, ticks_control] at hrun
  rw [phaseAdvances, ticks_control] at hq
  exact run_unique (by omega) hrun hlo hhi

end

/-- Settles O26: the place in the cycle after `k` base ticks is `k` modulo the cycle's base ticks, and it determines tick counter,
index and step counter. -/
theorem ticksHaveClosedForm : Obligations.TicksHaveClosedForm := by
  intro cfg s k hwf hs t P q
  have hinv : SeqInv cfg t := ticks_keeps_seqInv hwf (hs.seqInv hwf) k
  have hq : phaseAdvances cfg t = q := phaseAdvances_ticks_of_fresh hwf hs k
  have hrun := phaseAdvances_lt_run hinv
  have hidx := hinv.idx_lt
  have hcontrol : t.control = s.control := ticks_control cfg k s
  rw [hcontrol] at hidx
  rw [hq, hcontrol] at hrun
  rw [phaseAdvances, hcontrol] at hq
  exact ⟨tickCounter_ticks_of_fresh hwf hs k, hidx, by omega, hrun,
    fun i _ hlo hhi => (sequenceIndex_ticks_of_fresh hwf hs hlo hhi).symm, by omega, hinv.level_eq,
    ⟨ticks_volume cfg k s, hcontrol, ticks_frequencyDivider cfg k s⟩, ⟨ticks_pend cfg k s, ticks_commands cfg k s⟩,
    ticks_out cfg k s, ticks_rateAccumulator cfg k s⟩

/-! ### The level -/

/-- Two states with the same registers at the same place in the cycle stand on the same element. -/
theorem sequenceIndex_eq_of_cycleTicks_eq {cfg : Config} {s t : State} (hs : SeqInv cfg s) (ht : SeqInv cfg t)
    (hcontrol : t.control = s.control) (hdivider : t.frequencyDivider = s.frequencyDivider)
    (h : cycleTicks cfg t = cycleTicks cfg s) : t.sequenceIndex = s.sequenceIndex := by
  have hrun := phaseAdvances_lt_run hs
  have hrun' := phaseAdvances_lt_run ht
  have hq : phaseAdvances cfg t = phaseAdvances cfg s := by
    rw [phaseAdvances_eq_div ht, phaseAdvances_eq_div hs, hcontrol, hdivider, h]
  rw [hq, hcontrol] at hrun'
  rw [phaseAdvances, hcontrol] at hq
  exact run_unique (by rw [← hq]; omega) hrun' (Nat.le_add_right _ _) hrun

/-- The first run after a reset carries level 1. -/
theorem currentLevel_ticks_of_lt {cfg : Config} {s : State} {k : Nat} (hwf : cfg.Wf) (hs : FreshPhase s)
    (hk : (k : Int) < period cfg s.control s.frequencyDivider * seqAt cfg s.control 0) :
    (ticks cfg k s).currentLevel = true := by
  have hlen := one_le_seqLen hwf s.control
  have hcycle : prefixSum cfg s.control 1 ≤ cycleLength cfg s.control := prefixSum_le_cycleLength hlen
  rw [← prefixSum_one hlen] at hk
  have hq : k / period cfg s.control s.frequencyDivider < prefixSum cfg s.control 1 :=
    Nat.div_lt_of_lt_mul (by exact_mod_cast hk)
  have hidx : (ticks cfg k s).sequenceIndex = 0 :=
    sequenceIndex_ticks_of_fresh hwf hs (Nat.zero_le _) (by rw [Nat.mod_eq_of_lt (hq.trans_le hcycle)]; exact hq)
  rw [(ticks_keeps_seqInv hwf (hs.seqInv hwf) k).level_eq, hidx, levelOf_zero]

/-- Settles O27: a cycle later the place in the cycle is the same, and the first run carries level 1. -/
theorem levelIsPeriodicFromLevelOne : Obligations.LevelIsPeriodicFromLevelOne := by
  intro cfg s k hwf hs P
  refine ⟨?_, currentLevel_ticks_of_lt hwf hs⟩
  have h (j : Nat) : SeqInv cfg (ticks cfg j s) := ticks_keeps_seqInv hwf (hs.seqInv hwf) j
  have hplace : cycleTicks cfg (ticks cfg (k + P * cycleLength cfg s.control) s) = cycleTicks cfg (ticks cfg k s) := by
    rw [cycleTicks_ticks_of_fresh hwf hs, cycleTicks_ticks_of_fresh hwf hs, Nat.add_mod_right]
  have hidx := sequenceIndex_eq_of_cycleTicks_eq (h k) (h _) (by simp) (by simp) hplace
  rw [(h _).level_eq, hidx, (h k).level_eq]

end Sys2Proof.Machine
end

section
/-! SAMPLE and runs of SAMPLEs in one equation at any rates (`42_rate_converter.md` R154 to R159): how many base ticks are due, the
whole state after them, and the codes emitted on the way. -/

namespace Sys2Proof.Machine

/-! ### The rates of a well-formed configuration -/

theorem one_le_fOut {cfg : Config} (h : cfg.Wf) : 1 ≤ cfg.fOut := by
  obtain ⟨hfOut, -⟩ := h
  exact hfOut

theorem one_le_fNative {cfg : Config} (h : cfg.Wf) : 1 ≤ cfg.fNative := by
  obtain ⟨-, hfNative, -⟩ := h
  exact hfNative

/-- The reference parameters pass the check, whatever the open values are. -/
theorem wf_reference : reference.Wf :=
  ⟨by decide, by decide, by decide, referenceTable_wf, openFloatFmt_wf Config.openFloatFmt⟩

/-! ### The base ticks that are due -/

/-- The base ticks that `n` samples need from an accumulator, `ceil((n * F_NATIVE - acc) / F_OUT)`; `ticksDue` is the case of one
sample, `ticksForSamples` that of a reset. -/
def ticksDueFor (cfg : Config) (acc n : Nat) : Nat := (n * cfg.fNative - acc + cfg.fOut - 1) / cfg.fOut

theorem ticksDueFor_one (cfg : Config) (acc : Nat) : ticksDueFor cfg acc 1 = ticksDue cfg acc := by
  rw [ticksDueFor, Nat.one_mul, ticksDue]

theorem ticksDueFor_reset (cfg : Config) (n : Nat) : ticksDueFor cfg 0 n = ticksForSamples cfg n := rfl

theorem ticksDueFor_of_fOut_eq_zero {cfg : Config} (h : cfg.fOut = 0) (acc n : Nat) : ticksDueFor cfg acc n = 0 := by
  rw [ticksDueFor, h, Nat.div_zero]

theorem ticksDueFor_le_iff {cfg : Config} (h : 1 ≤ cfg.fOut) {acc n k : Nat} :
    ticksDueFor cfg acc n ≤ k ↔ n * cfg.fNative ≤ acc + k * cfg.fOut := by
  rw [ticksDueFor, ← Nat.ceilDiv_eq_add_pred_div, ceilDiv_le_iff_le_mul h, Nat.sub_le_iff_le_add', Nat.mul_comm cfg.fOut]

theorem lt_ticksDueFor_iff {cfg : Config} (h : 1 ≤ cfg.fOut) {acc n k : Nat} :
    k < ticksDueFor cfg acc n ↔ acc + k * cfg.fOut < n * cfg.fNative := by
  rw [← Nat.not_le, ticksDueFor_le_iff h, Nat.not_le]

/-- The base ticks that are due bring the accumulator far enough. -/
theorem le_ticksDueFor {cfg : Config} (h : 1 ≤ cfg.fOut) (acc n : Nat) :
    n * cfg.fNative ≤ acc + ticksDueFor cfg acc n * cfg.fOut :=
  (ticksDueFor_le_iff h).1 le_rfl

theorem ticksDueFor_zero (cfg : Config) (acc : Nat) : ticksDueFor cfg acc 0 = 0 := by
  rcases Nat.eq_zero_or_pos cfg.fOut with h | h
  · exact ticksDueFor_of_fOut_eq_zero h acc 0
  · exact Nat.le_zero.1 ((ticksDueFor_le_iff h).2 (by omega))

/-- One more sample needs the base ticks due from the accumulator that the samples before it leave. -/
theorem ticksDueFor_succ (cfg : Config) (acc n : Nat) :
    ticksDueFor cfg acc (n + 1) = ticksDueFor cfg acc n +
      ticksDueFor cfg (acc + ticksDueFor cfg acc n * cfg.fOut - n * cfg.fNative) 1 := by
  rcases Nat.eq_zero_or_pos cfg.fOut with h | h
  · simp only [ticksDueFor_of_fOut_eq_zero h]
  · have hn := le_ticksDueFor h acc n
    have hmore {m : Nat} (hm : (n + 1) * cfg.fNative ≤ acc + m * cfg.fOut) : ticksDueFor cfg acc n ≤ m :=
      (ticksDueFor_le_iff h).2 (by rw [Nat.succ_mul] at hm; omega)
    refine eq_of_forall_ge_iff fun m => ?_
    rw [ticksDueFor_le_iff h]
    constructor
    · intro hm
      have hsplit := Nat.sub_mul m (ticksDueFor cfg acc n) cfg.fOut
      have hle := Nat.mul_le_mul_right cfg.fOut (hmore hm)
      have hlast := (ticksDueFor_le_iff (acc := acc + ticksDueFor cfg acc n * cfg.fOut - n * cfg.fNative) (n := 1)
        (k := m - ticksDueFor cfg acc n) h).2 (by rw [Nat.succ_mul] at hm; omega)
      have := hmore hm
      omega
    · intro hm
      have hlast := le_ticksDueFor h (acc + ticksDueFor cfg acc n * cfg.fOut - n * cfg.fNative) 1
      have hle := Nat.mul_le_mul_right cfg.fOut hm
      rw [Nat.add_mul] at hle
      rw [Nat.succ_mul]
      omega

/-! ### SAMPLE and runs of SAMPLEs -/

/-- Ticks neither read nor write the accumulator and the output stream. -/
theorem ticks_withAccumulatorAndOut (cfg : Config) (k : Nat) (s : State) (a : Nat) (l : List SampleCode) :
    ticks cfg k { s with rateAccumulator := a, out := l } = { ticks cfg k s with rateAccumulator := a, out := l } := by
  simp only [ticks_eq]
  rfl

/-- SAMPLE at any rates, a rate of 0 included: the base ticks due, one sample, `F_NATIVE` paid. -/
theorem sample_eq (cfg : Config) (s : State) :
    sample cfg s = { ticks cfg (ticksDueFor cfg s.rateAccumulator 1) s with
      rateAccumulator := s.rateAccumulator + ticksDueFor cfg s.rateAccumulator 1 * cfg.fOut - cfg.fNative,
      out := s.out ++ [sampleNumerator (ticks cfg (ticksDueFor cfg s.rateAccumulator 1) s)] } := by
  have hloop : tickWhileDue cfg (ticksDue cfg s.rateAccumulator) s = runTicks cfg (ticksDueFor cfg s.rateAccumulator 1) s := by
    rw [ticksDueFor_one]
    rcases Nat.eq_zero_or_pos cfg.fOut with h | h
    · rw [← ticksDueFor_one, ticksDueFor_of_fOut_eq_zero h, runTicks_zero, tickWhileDue]
    · obtain ⟨hlow, hhigh⟩ := ticksDue_exact cfg h s.rateAccumulator
      exact tickWhileDue_eq cfg _ _ s le_rfl hlow hhigh
  rw [sample, hloop, emitAndPay, emitSample, State.emit, runTicks, ticks_out]
  rfl

theorem samples_succ (cfg : Config) (n : Nat) (s : State) : samples cfg (n + 1) s = sample cfg (samples cfg n s) :=
  samples_add cfg n 1 s

/-- The codes of the `n` samples that follow a state: sample `j` carries the level after the base ticks that `j` samples need. -/
def codesFrom (cfg : Config) (n : Nat) (s : State) : List SampleCode :=
  (List.range n).map fun j => sampleNumerator (ticks cfg (ticksDueFor cfg s.rateAccumulator (j + 1)) s)

@[simp] theorem codesFrom_length (cfg : Config) (n : Nat) (s : State) : (codesFrom cfg n s).length = n := by
  rw [codesFrom, List.length_map, List.length_range]

theorem codesFrom_succ (cfg : Config) (n : Nat) (s : State) :
    codesFrom cfg (n + 1) s =
      codesFrom cfg n s ++ [sampleNumerator (ticks cfg (ticksDueFor cfg s.rateAccumulator (n + 1)) s)] := by
  rw [codesFrom, List.range_succ, List.map_append, List.map_singleton, codesFrom]

theorem codesFrom_eq_replicate {cfg : Config} {n : Nat} {s : State} {c : SampleCode}
    (h : ∀ j < n, sampleNumerator (ticks cfg (ticksDueFor cfg s.rateAccumulator (j + 1)) s) = c) :
    codesFrom cfg n s = List.replicate n c := by
  refine List.eq_replicate_iff.2 ⟨codesFrom_length cfg n s, fun c' hc' => ?_⟩
  obtain ⟨j, hj, rfl⟩ := List.mem_map.1 hc'
  exact h j (List.mem_range.1 hj)

/-- What `n` SAMPLEs in a row leave, from any state and at any rates (R156). -/
theorem samples_eq (cfg : Config) (n : Nat) (s : State) :
    samples cfg n s = { ticks cfg (ticksDueFor cfg s.rateAccumulator n) s with
      rateAccumulator := s.rateAccumulator + ticksDueFor cfg s.rateAccumulator n * cfg.fOut - n * cfg.fNative,
      out := s.out ++ codesFrom cfg n s } := by
  induction n with
  | zero => simp [samples, ticksDueFor_zero, ticks, codesFrom]
  | succ n ih =>
    have hacc : s.rateAccumulator + ticksDueFor cfg s.rateAccumulator (n + 1) * cfg.fOut - (n + 1) * cfg.fNative =
        (samples cfg n s).rateAccumulator + ticksDueFor cfg (samples cfg n s).rateAccumulator 1 * cfg.fOut -
          cfg.fNative := by
      rw [ih, ticksDueFor_succ, Nat.add_mul, Nat.succ_mul]
      rcases Nat.eq_zero_or_pos cfg.fOut with h | h
      · simp only [h, Nat.mul_zero]
        omega
      · have := le_ticksDueFor h s.rateAccumulator n
        dsimp only
        omega
    rw [hacc, samples_succ, sample_eq, ih, ticks_withAccumulatorAndOut, ← ticks_add, codesFrom_succ,
      ticksDueFor_succ cfg s.rateAccumulator n, List.append_assoc]
    rfl

theorem samples_out (cfg : Config) (n : Nat) (s : State) : (samples cfg n s).out = s.out ++ codesFrom cfg n s := by
  rw [samples_eq]

@[simp] theorem samples_volume (cfg : Config) (n : Nat) (s : State) : (samples cfg n s).volume = s.volume := by simp [samples_eq]
@[simp] theorem samples_control (cfg : Config) (n : Nat) (s : State) : (samples cfg n s).control = s.control := by
  simp [samples_eq]
@[simp] theorem samples_frequencyDivider (cfg : Config) (n : Nat) (s : State) :
    (samples cfg n s).frequencyDivider = s.frequencyDivider := by simp [samples_eq]
@[simp] theorem samples_pend (cfg : Config) (n : Nat) (s : State) : (samples cfg n s).pend = s.pend := by simp [samples_eq]
@[simp] theorem samples_commands (cfg : Config) (n : Nat) (s : State) : (samples cfg n s).commands = s.commands := by
  simp [samples_eq]

/-- Every TICK and every sample is accounted for in the accumulator. -/
theorem samples_rateAccumulator_add {cfg : Config} (h : 1 ≤ cfg.fOut) (n : Nat) (s : State) :
    (samples cfg n s).rateAccumulator + n * cfg.fNative =
      s.rateAccumulator + ticksDueFor cfg s.rateAccumulator n * cfg.fOut := by
  have := le_ticksDueFor h s.rateAccumulator n
  rw [samples_eq]
  dsimp only
  omega

/-! ### SAMPLE and FILL as commands -/

theorem ticksDueFor_reference_of_lt {acc : Nat} (h : acc < 31440) : ticksDueFor reference acc 1 = 1 := by
  rw [ticksDueFor_one, ticksDue, reference_fOut, reference_fNative]
  omega

theorem ticksDueFor_reference_of_ge {acc : Nat} (h : 31440 ≤ acc) : ticksDueFor reference acc 1 = 0 := by
  rw [ticksDueFor_one, ticksDue, reference_fOut, reference_fNative]
  omega

/-- Settles O29: at the reference rates one TICK is due below 31440 and none from there on. -/
theorem sampleCompletesWithAtMostOneTick : Obligations.SampleCompletesWithAtMostOneTick := by
  intro s n
  constructor
  · intro h
    rw [exec_sample, sample_eq, ticksDueFor_reference_of_lt h]
    rfl
  · intro h
    rw [exec_sample, sample_eq, ticksDueFor_reference_of_ge h]
    rfl

/-- Settles O30: the number of TICKs is `ticksDueFor` of one sample, the least that reaches `F_NATIVE`. -/
theorem sampleRunsTheTicksThatAreDue : Obligations.SampleRunsTheTicksThatAreDue := by
  intro cfg s h
  refine ⟨ticksDueFor cfg s.rateAccumulator 1, ?_, ?_, ?_, ?_⟩
  · exact (ticksDueFor_one cfg _).trans_le (Nat.div_le_div_right (by omega))
  · simpa using le_ticksDueFor h s.rateAccumulator 1
  · intro j hj
    simpa using (lt_ticksDueFor_iff h).1 hj
  · rw [sample_eq, sampleNumerator, State.x_zero, ticks_volume]

theorem sample_rateAccumulator_lt {cfg : Config} {s : State} (h : 1 ≤ cfg.fOut) (hacc : s.rateAccumulator < cfg.fOut) :
    (sample cfg s).rateAccumulator < cfg.fOut := by
  obtain ⟨k, -, -, hleast, hs⟩ := sampleRunsTheTicksThatAreDue cfg s h
  rw [hs]
  dsimp only
  cases k with
  | zero => omega
  | succ k =>
    have := hleast k k.lt_succ_self
    rw [Nat.succ_mul]
    omega

theorem tickWhileDue_rateAccumulator_le {cfg : Config} (fuel : Nat) {s : State}
    (hacc : s.rateAccumulator ≤ cfg.fNative + cfg.fOut - 1) :
    (tickWhileDue cfg fuel s).rateAccumulator ≤ cfg.fNative + cfg.fOut - 1 := by
  induction fuel generalizing s with
  | zero => exact hacc
  | succ fuel ih =>
    rw [tickWhileDue]
    split
    · exact ih (by rw [baseTick_eq]; dsimp only; omega)
    · exact hacc

/-- Settles O31: a pass adds `F_OUT` only below `F_NATIVE`, and the loop's bound is the number of passes due. -/
theorem accumulatorStaysBelowSumOfRates : Obligations.AccumulatorStaysBelowSumOfRates := by
  intro cfg s fuel hwf hinv
  have hfOut := one_le_fOut hwf
  have hacc := hinv.acc_lt
  refine ⟨tickWhileDue_rateAccumulator_le fuel (by omega), ?_, sample_rateAccumulator_lt hfOut hacc⟩
  obtain ⟨hlow, hhigh⟩ := ticksDue_exact cfg hfOut s.rateAccumulator
  rw [tickWhileDue_eq cfg _ _ s le_rfl hlow hhigh, runTicks]
  exact hhigh

/-- Settles O32: the states between the SAMPLEs are those after `j` of them. -/
theorem fillCompletesAsSamples : Obligations.FillCompletesAsSamples := by
  intro s
  exact ⟨fun j => samples reference j s, rfl,
    fun j _ => congrArg Host.Outcome.next (samples_succ reference j s).symm, rfl⟩

/-- Settles O52: each command answers a next state, SAMPLE that of `sampleRunsTheTicksThatAreDue`, FILL the chain of its
SAMPLEs. -/
theorem commandsCompleteAtAnyParameters : Obligations.CommandsCompleteAtAnyParameters := by
  intro cfg s h
  obtain ⟨k, -, hhigh, hlow, hs⟩ := sampleRunsTheTicksThatAreDue cfg s h
  exact ⟨fun v c f => ⟨rfl, rfl⟩, ⟨k, hhigh, hlow, congrArg Host.Outcome.next hs⟩,
    fun j => samples cfg j s, rfl, fun j _ => congrArg Host.Outcome.next (samples_succ cfg j s).symm, rfl⟩

/-! ### The codes emitted -/

theorem sampleNumerator_eq_zero_or_volume (s : State) :
    sampleNumerator s = 0 ∨ (sampleNumerator s).toNat = s.volume.val := by
  cases h : s.currentLevel with
  | false => exact .inl (sampleNumerator_of_level_false h)
  | true => exact .inr (by rw [sampleNumerator_toNat, h, levelValue_true, Nat.one_mul])

theorem samples_frame (cfg : Config) (n : Nat) (s : State) :
    SameRegisters s (samples cfg n s) ∧ SameInputs s (samples cfg n s) ∧
      ∃ new, (samples cfg n s).out = s.out ++ new ∧ new.length = n ∧
        ∀ c ∈ new, (c = 0 ∨ c.toNat = s.volume.val) ∧ 0 ≤ sampleValue c ∧ sampleValue c ≤ 1 / 2 := by
  refine ⟨⟨samples_volume cfg n s, samples_control cfg n s, samples_frequencyDivider cfg n s⟩,
    ⟨samples_pend cfg n s, samples_commands cfg n s⟩, _, samples_out cfg n s, codesFrom_length cfg n s, fun c hc => ?_⟩
  obtain ⟨j, -, rfl⟩ := List.mem_map.1 hc
  refine ⟨?_, sampleValue_nonneg _, sampleValue_le_half _⟩
  rw [← ticks_volume cfg (ticksDueFor cfg s.rateAccumulator (j + 1)) s]
  exact sampleNumerator_eq_zero_or_volume _

/-- Settles O34: both commands are runs of SAMPLEs, of length 1 and 128. -/
theorem synthesisFrame : Obligations.SynthesisFrame := by
  rintro i s (rfl | rfl)
  · exact ⟨_, exec_sample s, samples_frame reference 1 s⟩
  · exact ⟨_, exec_fill s, samples_frame reference 128 s⟩

/-- Settles O36: a code is the level times the volume, and ticks do not read the volume. -/
theorem volumeZeroIsSilent : Obligations.VolumeZeroIsSilent := by
  intro cfg s n hvol
  constructor
  · rw [samples_out, codesFrom_eq_replicate]
    intro j _
    rcases sampleNumerator_eq_zero_or_volume (ticks cfg (ticksDueFor cfg s.rateAccumulator (j + 1)) s) with h | h
    · exact h
    · exact BitVec.eq_of_toNat_eq (by rw [h, ticks_volume, hvol]; rfl)
  · intro v
    simp only [samples_eq, ticks_eq]
    rfl

/-- Settles O15: the codes are those that follow the same update at power-on. -/
theorem samplesAfterUpdateForgetThePast : Obligations.SamplesAfterUpdateForgetThePast := by
  intro cfg v c f n
  refine ⟨codesFrom cfg n (applyUpdate v c f State.reset), codesFrom_length .., fun s => ?_⟩
  rw [samples_out, applyUpdate_out]
  simp only [codesFrom, ticks_eq]
  rfl

theorem samples_deliver (cfg : Config) (n : Nat) (u : UpdateRecord) (s : State) :
    samples cfg n (deliver u s) = deliver u (samples cfg n s) := by
  simp only [samples_eq, codesFrom, ticks_eq]
  rfl

/-- Settles O19: neither command reads or writes the pending updates. -/
theorem updateDeliveredDuringSynthesisWaits : Obligations.UpdateDeliveredDuringSynthesisWaits := by
  intro u s t
  constructor
  · intro h
    obtain rfl := Host.Outcome.next.inj h
    exact congrArg Host.Outcome.next (samples_deliver reference 1 u s)
  · intro h
    obtain rfl := Host.Outcome.next.inj h
    exact congrArg Host.Outcome.next (samples_deliver reference 128 u s)

/-! ### From a reset -/

theorem ticksForSamples_le_iff {cfg : Config} (h : 1 ≤ cfg.fOut) {n k : Nat} :
    ticksForSamples cfg n ≤ k ↔ n * cfg.fNative ≤ k * cfg.fOut := by
  rw [← ticksDueFor_reset, ticksDueFor_le_iff h, Nat.zero_add]

/-- Settles O39: the closed form of a run of SAMPLEs, with the accumulator at 0. -/
theorem countingLawOfSamples : Obligations.CountingLawOfSamples := by
  intro cfg s n hwf hs
  refine ⟨(ticksForSamples_le_iff (one_le_fOut hwf)).1 le_rfl, ?_⟩
  rw [samples_eq, codesFrom, hs.rateAccumulator_eq_zero, Nat.zero_add]
  rfl

/-- A sequence of one run length never leaves level 1. -/
theorem currentLevel_ticks_of_seqLen_eq_one {cfg : Config} {s : State} (hwf : cfg.Wf) (hs : SeqInv cfg s)
    (hlen : seqLen cfg s.control = 1) (k : Nat) : (ticks cfg k s).currentLevel = true := by
  have hk := ticks_keeps_seqInv hwf hs k
  have hidx := hk.idx_lt
  rw [ticks_control, hlen, Nat.lt_one_iff] at hidx
  rw [hk.level_eq, hidx, levelOf_zero]

theorem sampleNumerator_ticks_of_level_true {cfg : Config} {s : State} {k : Nat} (h : (ticks cfg k s).currentLevel = true) :
    sampleNumerator (ticks cfg k s) = BitVec.ofNat 4 s.volume.val := by
  rw [sampleNumerator_of_level_true h, ticks_volume]

theorem samples_out_of_seqLen_eq_one {cfg : Config} {s : State} (hwf : cfg.Wf) (hs : SeqInv cfg s)
    (hlen : seqLen cfg s.control = 1) (n : Nat) :
    (samples cfg n s).out = s.out ++ List.replicate n (BitVec.ofNat 4 s.volume.val) := by
  rw [samples_out, codesFrom_eq_replicate fun j _ =>
    sampleNumerator_ticks_of_level_true (currentLevel_ticks_of_seqLen_eq_one hwf hs hlen _)]

/-- Settles O37: entry 0 has one run length. -/
theorem controlZeroHoldsLevelOne : Obligations.ControlZeroHoldsLevelOne := by
  intro v f n s
  refine ⟨applyUpdate v 0 f s, rfl, ?_⟩
  have hs := (freshPhase_applyUpdate v 0 f s).seqInv wf_reference
  rw [samples_out_of_seqLen_eq_one wf_reference hs rfl, applyUpdate_out, applyUpdate_volume,
    ← BitVec.ofInt_natCast, clampTo_val_eq_clamp]
  rfl

end Sys2Proof.Machine
end

section
/-! The reference stream against SAMPLE (`42_rate_converter.md` R151, R152, R158), and the first transition after a reset
(R161). -/

namespace Sys2Proof.Machine

/-! ### The emission loop is a run of SAMPLEs -/

theorem sample_of_ge {cfg : Config} {s : State} (h : cfg.fNative ≤ s.rateAccumulator) : sample cfg s = emitAndPay cfg s := by
  have hdue : ticksDue cfg s.rateAccumulator = 0 := by
    rw [ticksDue, Nat.sub_eq_zero_of_le h, Nat.zero_add]
    rcases Nat.eq_zero_or_pos cfg.fOut with h0 | h0
    · rw [h0, Nat.div_zero]
    · exact Nat.div_eq_of_lt (by omega)
  rw [sample, hdue, tickWhileDue]

theorem emitLoop_eq_samples {cfg : Config} {fuel : Nat} {s : State} (h : fuel * cfg.fNative ≤ s.rateAccumulator) :
    emitLoop cfg fuel s = samples cfg fuel s := by
  induction fuel generalizing s with
  | zero => rfl
  | succ fuel ih =>
    rw [Nat.succ_mul] at h
    have hdue : cfg.fNative ≤ s.rateAccumulator := by omega
    rw [emitLoop, if_pos hdue, samples, sample_of_ge hdue, ih]
    rw [emitAndPay_rateAccumulator]
    omega

theorem emitWhileDue_eq_samples (cfg : Config) (s : State) :
    emitWhileDue cfg s = samples cfg (s.rateAccumulator / cfg.fNative) s :=
  emitLoop_eq_samples (Nat.div_mul_le_self _ _)

/-! ### Base ticks before a SAMPLE that are its own -/

theorem baseTick_runTicks (cfg : Config) (k : Nat) (s : State) : baseTick cfg (runTicks cfg k s) = runTicks cfg (k + 1) s := by
  simp only [runTicks, baseTick_eq, ticks_withAccumulator, ← ticks_add, Nat.succ_mul, Nat.add_assoc]

theorem sample_baseTick {cfg : Config} {s : State} (h : 1 ≤ cfg.fOut) (hdue : s.rateAccumulator < cfg.fNative) :
    sample cfg (baseTick cfg s) = sample cfg s := by
  have hacc : (baseTick cfg s).rateAccumulator = s.rateAccumulator + cfg.fOut := by rw [baseTick_eq]
  have hpass : ticksDue cfg s.rateAccumulator = ticksDue cfg (s.rateAccumulator + cfg.fOut) + 1 := by
    rw [← ticksDueFor_one, ← ticksDueFor_one]
    refine eq_of_forall_ge_iff fun m => ?_
    cases m with
    | zero => rw [ticksDueFor_le_iff h]; omega
    | succ m => rw [Nat.add_le_add_iff_right, ticksDueFor_le_iff h, ticksDueFor_le_iff h, Nat.succ_mul m]; omega
  rw [sample, sample, hacc, hpass, tickWhileDue, if_pos hdue]

theorem sample_runTicks {cfg : Config} (h : 1 ≤ cfg.fOut) (k : Nat) {s : State}
    (hdue : ∀ j < k, s.rateAccumulator + j * cfg.fOut < cfg.fNative) : sample cfg (runTicks cfg k s) = sample cfg s := by
  induction k with
  | zero => rw [runTicks_zero]
  | succ k ih =>
    rw [← baseTick_runTicks, sample_baseTick h (hdue k k.lt_succ_self), ih fun j hj => hdue j (by omega)]

/-! ### The reference stream is a run of SAMPLEs and the base ticks after it -/

theorem stream_succ (cfg : Config) (k : Nat) (s : State) : stream cfg (k + 1) s = streamTick cfg (stream cfg k s) := by
  induction k generalizing s with
  | zero => rfl
  | succ k ih => exact ih (streamTick cfg s)

/-- The samples that `k` base ticks pay for from an accumulator; `samplesByTick` is the case of a reset. -/
def samplesDueBy (cfg : Config) (acc k : Nat) : Nat := (acc + k * cfg.fOut) / cfg.fNative

theorem samplesDueBy_reset (cfg : Config) (k : Nat) : samplesDueBy cfg 0 k = samplesByTick cfg k := by
  rw [samplesDueBy, Nat.zero_add, samplesByTick]

/-- One more base tick pays for what `F_OUT` and the remainder so far come to. -/
theorem samplesDueBy_succ {cfg : Config} (h : 1 ≤ cfg.fNative) (acc k : Nat) :
    samplesDueBy cfg acc (k + 1) =
      samplesDueBy cfg acc k + ((acc + k * cfg.fOut) % cfg.fNative + cfg.fOut) / cfg.fNative := by
  have hdiv := Nat.div_add_mod (acc + k * cfg.fOut) cfg.fNative
  rw [samplesDueBy, samplesDueBy, ← Nat.mul_add_div h, Nat.succ_mul]
  congr 1
  omega

/-- The base ticks that no sample paid for by base tick `k` needs. -/
def ticksAhead (cfg : Config) (acc k : Nat) : Nat := k - ticksDueFor cfg acc (samplesDueBy cfg acc k)

section
variable {cfg : Config} (hOut : 1 ≤ cfg.fOut) (hNative : 1 ≤ cfg.fNative) (s : State) (k : Nat)
include hOut

theorem ticksDueFor_samplesDueBy_le (acc : Nat) : ticksDueFor cfg acc (samplesDueBy cfg acc k) ≤ k :=
  (ticksDueFor_le_iff hOut).2 (Nat.div_mul_le_self _ _)

/-- After `k` base ticks and the samples they pay for, the remainder is left in the accumulator. -/
theorem samples_rateAccumulator_add_ticksAhead :
    (samples cfg (samplesDueBy cfg s.rateAccumulator k) s).rateAccumulator + ticksAhead cfg s.rateAccumulator k * cfg.fOut =
      (s.rateAccumulator + k * cfg.fOut) % cfg.fNative := by
  have hpaid := samples_rateAccumulator_add hOut (samplesDueBy cfg s.rateAccumulator k) s
  have hle := Nat.mul_le_mul_right cfg.fOut (ticksDueFor_samplesDueBy_le hOut k s.rateAccumulator)
  have hdiv := Nat.div_add_mod' (s.rateAccumulator + k * cfg.fOut) cfg.fNative
  change samplesDueBy cfg s.rateAccumulator k * cfg.fNative + _ = _ at hdiv
  rw [ticksAhead, Nat.sub_mul]
  omega

/-- A base tick that pays for no sample is one more tick ahead. -/
theorem ticksAhead_succ_of_eq {acc : Nat} (h : samplesDueBy cfg acc (k + 1) = samplesDueBy cfg acc k) :
    ticksAhead cfg acc (k + 1) = ticksAhead cfg acc k + 1 := by
  rw [ticksAhead, h, ticksAhead, Nat.sub_add_comm (ticksDueFor_samplesDueBy_le hOut k acc)]

include hNative

/-- A base tick that pays for a sample leaves none ahead. -/
theorem ticksAhead_succ_of_lt {acc : Nat} (h : samplesDueBy cfg acc k < samplesDueBy cfg acc (k + 1)) :
    ticksAhead cfg acc (k + 1) = 0 := by
  have hlt : acc + k * cfg.fOut < (samplesDueBy cfg acc k + 1) * cfg.fNative := by
    rw [Nat.mul_comm _ cfg.fNative]
    exact Nat.lt_mul_div_succ _ hNative
  have hdue : k < ticksDueFor cfg acc (samplesDueBy cfg acc (k + 1)) :=
    (lt_ticksDueFor_iff hOut).2 (hlt.trans_le (Nat.mul_le_mul_right _ h))
  exact Nat.sub_eq_zero_of_le hdue

/-- `k` base ticks of the reference stream, once the samples already due are out (conflict C7): the samples paid for, and the
base ticks that none of them needs. -/
theorem stream_emitWhileDue_eq :
    stream cfg k (emitWhileDue cfg s) =
      runTicks cfg (ticksAhead cfg s.rateAccumulator k) (samples cfg (samplesDueBy cfg s.rateAccumulator k) s) := by
  induction k with
  | zero =>
    rw [ticksAhead, Nat.zero_sub, runTicks_zero, stream, emitWhileDue_eq_samples, samplesDueBy, Nat.zero_mul, Nat.add_zero]
  | succ k ih =>
    have hacc := samples_rateAccumulator_add_ticksAhead hOut s k
    have hrest := Nat.mod_lt (s.rateAccumulator + k * cfg.fOut) hNative
    have hpays := samplesDueBy_succ hNative s.rateAccumulator k
    rw [stream_succ, ih, streamTick, emitWhileDue_eq_samples, baseTick_runTicks]
    rw [show (runTicks cfg (ticksAhead cfg s.rateAccumulator k + 1)
        (samples cfg (samplesDueBy cfg s.rateAccumulator k) s)).rateAccumulator / cfg.fNative =
      ((s.rateAccumulator + k * cfg.fOut) % cfg.fNative + cfg.fOut) / cfg.fNative by
        rw [← hacc, Nat.add_assoc, ← Nat.succ_mul, runTicks]]
    generalize ((s.rateAccumulator + k * cfg.fOut) % cfg.fNative + cfg.fOut) / cfg.fNative = paid at hpays ⊢
    cases paid with
    | zero =>
      have hsame : samplesDueBy cfg s.rateAccumulator (k + 1) = samplesDueBy cfg s.rateAccumulator k := hpays
      rw [ticksAhead_succ_of_eq hOut k hsame, hsame, samples]
    | succ m =>
      rw [ticksAhead_succ_of_lt hOut hNative k (by omega), runTicks_zero, samples, sample_runTicks hOut, hpays, samples_add]
      · rfl
      · intro j hj
        have := Nat.mul_le_mul_right cfg.fOut (Nat.le_of_lt_succ hj)
        omega

end

/-- Settles O41: the samples paid for by base tick `k`, and `ticksAhead` base ticks. -/
theorem samplesAreTheReferenceStream : Obligations.SamplesAreTheReferenceStream := by
  intro cfg s k hwf n
  have hOut := one_le_fOut hwf
  have hNative := one_le_fNative hwf
  have hacc := samples_rateAccumulator_add_ticksAhead hOut s k
  exact ⟨ticksAhead cfg s.rateAccumulator k, hacc.trans_lt (Nat.mod_lt _ hNative), stream_emitWhileDue_eq hOut hNative s k⟩

/-- A quotient lies within one of its floor. -/
theorem div_sub_floor_mem (a b : Nat) (h : 0 < b) :
    0 ≤ (a : Rat) / (b : Rat) - ((a / b : Nat) : Rat) ∧ (a : Rat) / (b : Rat) - ((a / b : Nat) : Rat) < 1 := by
  have hb : (0 : Rat) < b := by exact_mod_cast h
  have hlt : (a : Rat) < b * ((a / b : Nat) + 1) := by exact_mod_cast Nat.lt_mul_div_succ a h
  have hfloor : ((a / b : Nat) : Rat) ≤ (a : Rat) / (b : Rat) := Nat.cast_div_le
  have hceil : (a : Rat) / (b : Rat) < (a / b : Nat) + 1 := by rwa [div_lt_iff₀' hb]
  constructor <;> linarith

/-- Settles O40: from a reset nothing is due, so the stream is the samples paid for and the base ticks ahead of them. -/
theorem streamEmitsAtTheRatioOfRates : Obligations.StreamEmitsAtTheRatioOfRates := by
  intro cfg s k hwf hs
  have hOut := one_le_fOut hwf
  have hNative := one_le_fNative hwf
  have hacc := hs.rateAccumulator_eq_zero
  have hstart : emitWhileDue cfg s = s := by rw [emitWhileDue_eq_samples, hacc, Nat.zero_div, samples]
  have hstream := stream_emitWhileDue_eq hOut hNative s k
  have hrest := samples_rateAccumulator_add_ticksAhead hOut s k
  rw [hstart, hacc, samplesDueBy_reset] at hstream
  rw [hacc, samplesDueBy_reset, Nat.zero_add] at hrest
  refine ⟨codesFrom cfg (samplesByTick cfg k) s, ?_, codesFrom_length .., ?_, ?_⟩
  · rw [hstream, runTicks, ticks_out, samples_out]
  · rw [hstream, runTicks, ← hrest]
  · rw [codesFrom_length]
    exact div_sub_floor_mem _ _ hNative

/-! ### The first transition -/

section
variable {cfg : Config} {s : State} {r0 : Nat} (hwf : cfg.Wf) (hr0 : seqAt cfg s.control 0 = (r0 : Int))
include hwf hr0

theorem period_mul_firstRun_pos : 1 ≤ period cfg s.control s.frequencyDivider * r0 := by
  have hrun := one_le_seqAt hwf (one_le_seqLen hwf s.control)
  exact Nat.mul_pos (period_pos hwf _ _) (by omega)

/-- Up-conversion: the sample after the last one inside the first run stops at the base tick that ends it. -/
theorem ticksForSamples_firstTransition (hup : cfg.fNative ≤ cfg.fOut) :
    ticksForSamples cfg ((period cfg s.control s.frequencyDivider * r0 - 1) * cfg.fOut / cfg.fNative + 1) =
      period cfg s.control s.frequencyDivider * r0 := by
  have hpos := period_mul_firstRun_pos hwf hr0
  have hbelow := Nat.div_mul_le_self ((period cfg s.control s.frequencyDivider * r0 - 1) * cfg.fOut) cfg.fNative
  have habove := Nat.lt_mul_div_succ ((period cfg s.control s.frequencyDivider * r0 - 1) * cfg.fOut) (one_le_fNative hwf)
  obtain ⟨T, hT⟩ : ∃ T, period cfg s.control s.frequencyDivider * r0 = T + 1 := ⟨_, (Nat.sub_add_cancel hpos).symm⟩
  rw [hT, Nat.add_sub_cancel] at hbelow habove ⊢
  apply le_antisymm
  · rw [ticksForSamples_le_iff (one_le_fOut hwf), Nat.succ_mul, Nat.succ_mul]
    omega
  · by_contra hlt
    have := (ticksForSamples_le_iff (one_le_fOut hwf)).1 (show ticksForSamples cfg (T * cfg.fOut / cfg.fNative + 1) ≤ T by omega)
    rw [Nat.mul_comm] at this
    omega

variable (hs : FreshPhase s)
include hs

/-- Samples whose base ticks end inside the first run carry level 1. -/
theorem codesFrom_eq_replicate_of_firstRun {n : Nat}
    (hn : n * cfg.fNative ≤ (period cfg s.control s.frequencyDivider * r0 - 1) * cfg.fOut) :
    codesFrom cfg n s = List.replicate n (BitVec.ofNat 4 s.volume.val) := by
  have hpos := period_mul_firstRun_pos hwf hr0
  refine codesFrom_eq_replicate fun j hj => sampleNumerator_ticks_of_level_true (currentLevel_ticks_of_lt hwf hs ?_)
  have hle : ticksForSamples cfg (j + 1) ≤ period cfg s.control s.frequencyDivider * r0 - 1 :=
    (ticksForSamples_le_iff (one_le_fOut hwf)).2 ((Nat.mul_le_mul_right _ hj).trans hn)
  rw [hs.rateAccumulator_eq_zero, ticksDueFor_reset, hr0]
  have : ticksForSamples cfg (j + 1) < period cfg s.control s.frequencyDivider * r0 := by omega
  exact_mod_cast this

/-- The base tick that ends the first run leaves level 0, if there is a second run. -/
theorem currentLevel_ticks_firstRun (hlen : 2 ≤ seqLen cfg s.control) :
    (ticks cfg (period cfg s.control s.frequencyDivider * r0) s).currentLevel = false := by
  have hone := prefixSum_one (show 0 < seqLen cfg s.control by omega)
  have htwo := prefixSum_succ (show 1 < seqLen cfg s.control from hlen)
  have hrun := one_le_seqAt hwf (show 1 < seqLen cfg s.control from hlen)
  have hcycle : prefixSum cfg s.control (1 + 1) ≤ cycleLength cfg s.control := prefixSum_le_cycleLength hlen
  have hq : period cfg s.control s.frequencyDivider * r0 / period cfg s.control s.frequencyDivider %
      cycleLength cfg s.control = r0 := by
    rw [Nat.mul_div_cancel_left _ (period_pos hwf _ _)]
    exact Nat.mod_eq_of_lt (by omega)
  have hidx := sequenceIndex_ticks_of_fresh (i := 1) hwf hs (by rw [hq]; omega) (by rw [hq]; omega)
  rw [(ticks_keeps_seqInv hwf (hs.seqInv hwf) _).level_eq, hidx]
  rfl

end

/-- Settles O42: the first run is over exactly when the samples' base ticks pass `P * r0 - 1`. -/
theorem firstTransitionComesAtSampleN0 : Obligations.FirstTransitionComesAtSampleN0 := by
  intro cfg s r0 hwf hs hr0 n0 one
  have hinside {n : Nat} (hn : n < n0) : codesFrom cfg n s = List.replicate n one :=
    codesFrom_eq_replicate_of_firstRun hwf hr0 hs ((Nat.le_div_iff_mul_le (one_le_fNative hwf)).1 (Nat.le_of_lt_succ hn))
  refine ⟨samples_out_of_seqLen_eq_one hwf (hs.seqInv hwf), fun n hn => ?_, fun hlen hup => ?_⟩
  · rw [samples_out, hinside hn]
  · have hlast : sampleNumerator (ticks cfg (ticksDueFor cfg s.rateAccumulator n0) s) = 0#4 := by
      rw [hs.rateAccumulator_eq_zero, ticksDueFor_reset, ticksForSamples_firstTransition hwf hr0 hup]
      exact sampleNumerator_of_level_false (currentLevel_ticks_firstRun hwf hr0 hs hlen)
    rw [samples_out, codesFrom_succ, hlast, hinside (Nat.lt_succ_self _), ← List.append_assoc]
    rfl

end Sys2Proof.Machine
end

section
/-! UPDATE as a function of its clamped operands (`40_register_update.md` R103, `30_encoding.md` R73), and the updates that are
pending (`20_memory.md` R58). -/

namespace Sys2Proof.Machine

/-! ### UPDATE -/

/-- UPDATE keeps the two inputs and the output stream, and takes everything else from its clamped operands. -/
theorem applyUpdate_eq_reset (v c f : Int) (s : State) :
    applyUpdate v c f s =
      { State.reset.setRegisters (clampOperands v c f) with pend := s.pend, commands := s.commands, out := s.out } := rfl

theorem applyUpdate_applyUpdate (v c f v' c' f' : Int) (s : State) :
    applyUpdate v' c' f' (applyUpdate v c f s) = applyUpdate v' c' f' s := rfl

theorem applyUpdate_congr_operands {v c f v' c' f' : Int} (h : clampOperands v c f = clampOperands v' c' f') (s : State) :
    applyUpdate v c f s = applyUpdate v' c' f' s := by
  rw [applyUpdate, h, applyUpdate]

theorem applyUpdate_congr_state (v c f : Int) {s s' : State} (hin : SameInputs s s') (hout : s'.out = s.out) :
    applyUpdate v c f s = applyUpdate v c f s' := by
  obtain ⟨hpend, hcommands⟩ := hin
  rw [applyUpdate_eq_reset, applyUpdate_eq_reset, hpend, hcommands, hout]

/-- Settles O13, by the three ways two updates can agree. -/
theorem updateForgetsEarlierUpdates : Obligations.UpdateForgetsEarlierUpdates := by
  refine ⟨fun v c f v' c' f' s t h => ?_, fun v c f v' c' f' s h => ?_, fun v c f s s' hin hout => ?_⟩
  · obtain rfl := Host.Outcome.next.inj h
    exact congrArg Host.Outcome.next (applyUpdate_applyUpdate v c f v' c' f' s)
  · exact congrArg Host.Outcome.next (applyUpdate_congr_operands h s)
  · exact congrArg Host.Outcome.next (applyUpdate_congr_state v c f hin hout)

theorem clampTo_clamp (m : Nat) (v : Int) : clampTo m (clamp v 0 m) = clampTo m v := by
  refine Fin.ext (Int.ofNat_inj.1 ?_)
  rw [clampTo_val_eq_clamp, clampTo_val_eq_clamp, clamp_clamp v (Int.natCast_nonneg m)]

theorem fitsSigned8_clamp (v : Int) {m : Int} (h0 : 0 ≤ m) (hm : m ≤ 127) : fitsSigned8 (clamp v 0 m) = true := by
  have hlo := le_clamp v h0
  have hhi := clamp_le v h0
  rw [fitsSigned8, Bool.and_eq_true, decide_eq_true_iff, decide_eq_true_iff]
  omega

/-- Settles O14: the clamped operands clamp to themselves and fit their fields. -/
theorem everyUpdateHasAnEncodableTwin : Obligations.EveryUpdateHasAnEncodableTwin := by
  intro v c f
  refine ⟨clamp v 0 15, clamp c 0 15, clamp f 0 31, ?_, fun s => ?_⟩
  · rw [Instr.wellFormed, fitsSigned8_clamp v (by decide) (by decide), fitsSigned8_clamp c (by decide) (by decide),
      fitsSigned8_clamp f (by decide) (by decide)]
    rfl
  · refine congrArg Host.Outcome.next (applyUpdate_congr_operands ?_ s)
    exact (congr (congr (congrArg Clamped.mk (clampTo_clamp VOL_MAX v)) (clampTo_clamp CTL_MAX c)) (clampTo_clamp FRQ_MAX f)).symm

/-- Settles O16: with nothing pending, presented or emitted, UPDATE of zeros leaves the power-on state. -/
theorem powerOnIsUpdateOfZeros : Obligations.PowerOnIsUpdateOfZeros := by
  intro s hpend hcommands hout
  rw [exec_update, applyUpdate_eq_reset, hpend, hcommands, hout]
  rfl

/-! ### Delivered updates -/

theorem drainPending_of_nil {s : State} (h : s.pend = []) : drainPending s = s := by
  rcases drainPending_cases s with ⟨-, heq⟩ | ⟨us, u, hpend, -⟩
  · exact heq
  · rw [h] at hpend
    exact absurd hpend.symm (List.append_ne_nil_of_right_ne_nil us (List.cons_ne_nil u []))

theorem drainPending_of_concat {s : State} {us : List UpdateRecord} {u : UpdateRecord} (h : s.pend = us ++ [u]) :
    drainPending s = { applyUpdate u.volume u.control u.frequencyDivider s with pend := [] } := by
  rcases drainPending_cases s with ⟨hnil, -⟩ | ⟨us', u', hpend, heq⟩
  · rw [hnil] at h
    exact absurd h.symm (List.append_ne_nil_of_right_ne_nil us (List.cons_ne_nil u []))
  · obtain ⟨-, hu⟩ := List.append_inj' (h.symm.trans hpend) rfl
    obtain ⟨rfl, -⟩ := List.cons.inj hu
    exact heq

/-- Settles O17: the newest update is the last one of the queue, the only one whose effect remains. -/
theorem drainingLeavesTheNewestUpdate : Obligations.DrainingLeavesTheNewestUpdate := by
  refine ⟨fun s => drainPending_of_nil, fun s us u h => ?_⟩
  rw [drainPending_of_concat h, exec_update]
  rfl

theorem applyUpdates_takeCommand (us : List UpdateRecord) (rest : List Word) (s : State) :
    applyUpdates us (takeCommand rest s) = takeCommand rest (applyUpdates us s) := by
  induction us generalizing s with
  | nil => rfl
  | cons u us ih => exact ih (applyUpdate u.volume u.control u.frequencyDivider s)

theorem drainPending_takeCommand (rest : List Word) (s : State) :
    drainPending (takeCommand rest s) = takeCommand rest (drainPending s) :=
  applyUpdates_takeCommand s.pend rest { s with pend := [] }

theorem integerField_of_den_ne_one {q : Rat} (h : q.den ≠ 1) : integerField q = none := if_neg h

theorem integerField_intCast (n : Int) : integerField (n : Rat) = some n := if_pos (Rat.den_intCast n)

/-- Settles O20: one field without an integer value is enough for the refusal. -/
theorem nonIntegerFieldsAreRefused : Obligations.NonIntegerFieldsAreRefused := by
  constructor
  · rintro v c f s (h | h | h)
    · rw [deliverRational, integerField_of_den_ne_one h]
    · rw [deliverRational, integerField_of_den_ne_one h]
      cases integerField v <;> rfl
    · rw [deliverRational, integerField_of_den_ne_one h]
      cases integerField v <;> cases integerField c <;> rfl
  · intro v c f s
    rw [deliverRational, integerField_intCast, integerField_intCast, integerField_intCast]

/-! ### The period and the check of the configuration -/

/-- Settles O22: a divisor of at least 1 and at most 3 times a factor in 1..32. -/
theorem periodIsPositiveAndBounded : Obligations.PeriodIsPositiveAndBounded :=
  fun _ c f hwf => ⟨period_pos hwf c f, fun hdiv => Nat.mul_le_mul hdiv f.isLt⟩

theorem powerOn_of_wf {cfg : Config} (h : cfg.Wf) : powerOn cfg = .next State.reset := if_pos h

theorem powerOn_of_not_wf {cfg : Config} (h : ¬ cfg.Wf) : powerOn cfg = .refused .illFormedConfig := if_neg h

/-- Settles O46: the two outcomes of the check, and the reference parameters, which pass it. -/
theorem configurationIsCheckedAtPowerOn : Obligations.ConfigurationIsCheckedAtPowerOn :=
  ⟨fun _ => powerOn_of_wf, fun _ => powerOn_of_not_wf, powerOn_of_wf wf_reference⟩

end Sys2Proof.Machine
end

section
/-! The invariant of a channel (`10_state.md` R26 to R31, `42_rate_converter.md` R153): it holds at a reset, and every command and
every step keeps it, at any well-formed parameters. -/

namespace Sys2Proof.Machine

theorem FreshPhase.inv {cfg : Config} {s : State} (hwf : cfg.Wf) (h : FreshPhase s) : Inv cfg s := by
  have hacc := h.rateAccumulator_eq_zero
  exact ⟨h.seqInv hwf, by rw [hacc]; exact one_le_fOut hwf, by rw [hacc]; exact Nat.dvd_zero _⟩

/-- Settles O43: the power-on state is a fresh phase. -/
theorem resetMeetsTheInvariant : Obligations.ResetMeetsTheInvariant := by
  have h : FreshPhase State.reset := ⟨rfl, rfl, rfl, rfl, rfl⟩
  exact ⟨fun _ hwf => h.inv hwf, h.inv wf_reference⟩

/-- The invariant does not read the two inputs and the output stream. -/
theorem Inv.withPorts {cfg : Config} {s : State} (h : Inv cfg s) (p : List UpdateRecord) (c : List Word)
    (l : List SampleCode) : Inv cfg { s with pend := p, commands := c, out := l } :=
  ⟨⟨h.tick_lt, h.idx_lt, h.step_lt, h.level_eq⟩, h.acc_lt, h.acc_dvd⟩

theorem sample_keeps_inv {cfg : Config} {s : State} (hwf : cfg.Wf) (h : Inv cfg s) : Inv cfg (sample cfg s) := by
  have hseq := ticks_keeps_seqInv hwf h.toSeqInv (ticksDueFor cfg s.rateAccumulator 1)
  have hlt := sample_rateAccumulator_lt (one_le_fOut hwf) h.acc_lt
  have hdvd : rateGcd cfg ∣ s.rateAccumulator + ticksDueFor cfg s.rateAccumulator 1 * cfg.fOut - cfg.fNative :=
    Nat.dvd_sub (Nat.dvd_add h.acc_dvd (Dvd.dvd.mul_left (Nat.gcd_dvd_left _ _) _)) (Nat.gcd_dvd_right _ _)
  rw [sample_eq] at hlt ⊢
  exact ⟨⟨hseq.tick_lt, hseq.idx_lt, hseq.step_lt, hseq.level_eq⟩, hlt, hdvd⟩

theorem samples_keeps_inv {cfg : Config} {s : State} (hwf : cfg.Wf) (h : Inv cfg s) (n : Nat) : Inv cfg (samples cfg n s) := by
  induction n generalizing s with
  | zero => exact h
  | succ n ih => exact ih (sample_keeps_inv hwf h)

theorem applyUpdate_inv {cfg : Config} (hwf : cfg.Wf) (v c f : Int) (s : State) : Inv cfg (applyUpdate v c f s) :=
  (freshPhase_applyUpdate v c f s).inv hwf

/-- Settles O45: an update resets the phase, and FILL is a run of SAMPLEs. -/
theorem commandsKeepTheInvariantAtAnyRates : Obligations.CommandsKeepTheInvariantAtAnyRates :=
  fun cfg s hwf h => ⟨fun v c f => applyUpdate_inv hwf v c f s, sample_keeps_inv hwf h, samples_keeps_inv hwf h cfg.block⟩

theorem execState_keeps_inv {cfg : Config} {s : State} (hwf : cfg.Wf) (h : Inv cfg s) (i : Instr) :
    Inv cfg (execState cfg i s) := by
  obtain ⟨hupdate, hsample, hfill⟩ := commandsKeepTheInvariantAtAnyRates cfg s hwf h
  cases i with
  | update v c f => exact hupdate v c f
  | sample => exact hsample
  | fill => exact hfill

theorem drainPending_keeps_inv {cfg : Config} {s : State} (hwf : cfg.Wf) (h : Inv cfg s) : Inv cfg (drainPending s) := by
  rcases drainPending_cases s with ⟨-, heq⟩ | ⟨us, u, -, heq⟩ <;> rw [heq]
  · exact h
  · exact (applyUpdate_inv hwf u.volume u.control u.frequencyDivider s).withPorts [] _ _

/-- Settles O54: an idle step keeps the state; any other takes its word, drains the pending updates and runs one command. -/
theorem stepKeepsTheInvariantAtAnyParameters : Obligations.StepKeepsTheInvariantAtAnyParameters := by
  intro cfg s t hwf h hstep
  rcases stepIn_cases hstep with ⟨-, rfl⟩ | ⟨w, rest, i, -, -, rfl⟩
  · exact h
  · exact execState_keeps_inv hwf (drainPending_keeps_inv hwf (h.withPorts _ rest _)) i

/-- Settles O44: the case of the reference parameters. -/
theorem stepKeepsTheInvariant : Obligations.StepKeepsTheInvariant := by
  intro s t h hstep
  rw [step_eq_stepIn] at hstep
  exact stepKeepsTheInvariantAtAnyParameters reference s t wf_reference h hstep

end Sys2Proof.Machine
end

section
/-! Steps and runs (`20_memory.md` R57, `60_exceptions.md` R186): the three ways a step goes, runs of legal words, runs of update
words and of SAMPLE words, whole programs, and several channels. -/

namespace Sys2Proof.Machine

/-! ### One step -/

/-- Settles O50, from the equations between the two machines. -/
theorem referenceMachineIsOneInstance : Obligations.ReferenceMachineIsOneInstance :=
  ⟨exec_eq_execIn, fun s => congrFun step_eq_stepIn s, fun k s => congrFun (congrFun run_eq_runIn k) s, machine_run_eq⟩

/-- Settles O51: the three ways a step goes. -/
theorem stepAtAnyParametersRunsTheDecodedCommand : Obligations.StepAtAnyParametersRunsTheDecodedCommand :=
  fun cfg _ => ⟨stepIn_of_nil cfg, fun _ _ _ => stepIn_of_ok cfg, fun _ _ _ => stepIn_of_error cfg⟩

/-- Settles O6: the case of a legal word at the reference parameters. -/
theorem stepRunsTheDecodedCommand : Obligations.StepRunsTheDecodedCommand := by
  intro s w rest i hcommands hdecode
  rw [step_eq_stepIn, stepIn_of_ok reference hcommands hdecode, exec_eq_execIn]
  rfl

/-- Settles O7: the case of no word at the reference parameters. -/
theorem stepWithoutCommandKeepsState : Obligations.StepWithoutCommandKeepsState := by
  intro s h
  rw [step_eq_stepIn, stepIn_of_nil reference h]

theorem stepIn_of_legal (cfg : Config) {s : State} {w : Word} {rest : List Word} {i : Instr} (h : s.commands = w :: rest)
    (hd : decodeWord w = .ok i) : stepIn cfg s = .next (execState cfg i (drainPending (takeCommand rest s))) := by
  rw [stepIn_of_ok cfg h hd, execIn_eq_next]

/-- The decoder rejects a word under one name only. -/
theorem decodeWord_error {w : Word} {e : DecodeError} (h : decodeWord w = .error e) : e = .reservedCommand w := by
  rw [decodeWord_eq] at h
  split_ifs at h
  exact (Except.error.inj h).symm

/-- Settles O8: by the word at the head of the port and the decoder's verdict on it. -/
theorem stepRefusesReservedWordsOnly : Obligations.StepRefusesReservedWordsOnly := by
  intro s
  rw [step_eq_stepIn]
  refine ⟨⟨?_, fun hlegal => ?_⟩, fun w rest e => stepIn_of_error reference, fun r hr => ?_⟩
  · rintro ⟨t, ht⟩ w rest hcommands
    rcases stepIn_cases ht with ⟨hnil, -⟩ | ⟨w', rest', i, hcommands', hdecode, -⟩
    · exact absurd (hcommands.symm.trans hnil) (List.cons_ne_nil w rest)
    · obtain ⟨rfl, -⟩ := List.cons.inj (hcommands.symm.trans hcommands')
      exact ⟨i, hdecode⟩
  · cases hcommands : s.commands with
    | nil => exact ⟨s, stepIn_of_nil reference hcommands⟩
    | cons w rest =>
      obtain ⟨i, hdecode⟩ := hlegal w rest hcommands
      exact ⟨_, stepIn_of_legal reference hcommands hdecode⟩
  · cases hcommands : s.commands with
    | nil =>
      rw [stepIn_of_nil reference hcommands] at hr
      cases hr
    | cons w rest =>
      cases hdecode : decodeWord w with
      | ok i =>
        rw [stepIn_of_legal reference hcommands hdecode] at hr
        cases hr
      | error e =>
        rw [stepIn_of_error reference hcommands hdecode] at hr
        cases hr
        exact ⟨w, rest, rfl, rfl, by rw [hdecode, decodeWord_error hdecode]⟩

/-! ### What a command leaves at the ports -/

/-- The samples one command asks for. -/
def samplesOfInstr (cfg : Config) : Instr → Nat
  | .update _ _ _ => 0
  | .sample => 1
  | .fill => cfg.block

theorem samplesOfWord_of_ok (cfg : Config) {w : Word} {i : Instr} (h : decodeWord w = .ok i) :
    samplesOfWord cfg w = samplesOfInstr cfg i := by
  rw [samplesOfWord, h]
  cases i <;> rfl

theorem execState_ports (cfg : Config) (i : Instr) (s : State) :
    (execState cfg i s).commands = s.commands ∧ (execState cfg i s).pend = s.pend ∧
      ∃ new, (execState cfg i s).out = s.out ++ new ∧ new.length = samplesOfInstr cfg i := by
  cases i with
  | update v c f => exact ⟨rfl, rfl, [], (List.append_nil s.out).symm, rfl⟩
  | sample => exact ⟨samples_commands cfg 1 s, samples_pend cfg 1 s, _, samples_out cfg 1 s, codesFrom_length cfg 1 s⟩
  | fill =>
    exact ⟨samples_commands cfg cfg.block s, samples_pend cfg cfg.block s, _, samples_out cfg cfg.block s,
      codesFrom_length cfg cfg.block s⟩

/-- What a step with a legal word leaves at the ports. -/
theorem stepIn_ports (cfg : Config) {s : State} {w : Word} {rest : List Word} {i : Instr} (h : s.commands = w :: rest)
    (hd : decodeWord w = .ok i) :
    ∃ t, stepIn cfg s = .next t ∧ t.commands = rest ∧ t.pend = [] ∧
      ∃ new, t.out = s.out ++ new ∧ new.length = samplesOfInstr cfg i := by
  obtain ⟨hcommands, hpend, new, hout, hlen⟩ := execState_ports cfg i (drainPending (takeCommand rest s))
  rw [drainPending_commands, takeCommand_commands] at hcommands
  rw [drainPending_pend] at hpend
  rw [drainPending_out, takeCommand_out] at hout
  exact ⟨_, stepIn_of_legal cfg h hd, hcommands, hpend, new, hout, hlen⟩

/-- Settles O10: the frame of a step at the reference parameters, whose block is 128. -/
theorem stepTakesOneWordAndAppends : Obligations.StepTakesOneWordAndAppends := by
  intro s t w rest i hcommands hdecode hstep
  obtain ⟨t', hstep', hrest, hpend, new, hout, hlen⟩ := stepIn_ports reference hcommands hdecode
  rw [step_eq_stepIn, hstep'] at hstep
  obtain rfl := Host.Outcome.next.inj hstep
  exact ⟨hrest, hpend, new, hout, hlen.trans (by cases i <;> rfl)⟩

/-! ### Runs of legal words -/

/-- A run over legal words takes them and emits what they ask for. -/
theorem runIn_of_legal (cfg : Config) (k : Nat) {s : State} (h : ∀ w ∈ s.commands.take k, ∃ i, decodeWord w = .ok i) :
    ∃ t, runIn cfg k s = .next t ∧ t.commands = s.commands.drop k ∧ (s.pend = [] → t.pend = []) ∧
      t.out.length = s.out.length + ((s.commands.take k).map (samplesOfWord cfg)).sum := by
  induction k generalizing s with
  | zero => exact ⟨s, rfl, rfl, id, rfl⟩
  | succ k ih =>
    rw [runIn_succ]
    cases hcommands : s.commands with
    | nil =>
      obtain ⟨t, hrun, ht⟩ := ih (s := s) (by rw [hcommands, List.take_nil]; nofun)
      rw [hcommands, List.take_nil, List.drop_nil] at ht
      rw [stepIn_of_nil cfg hcommands, andThen_next]
      exact ⟨t, hrun, ht⟩
    | cons w rest =>
      rw [hcommands, List.take_succ_cons, List.forall_mem_cons] at h
      obtain ⟨⟨i, hdecode⟩, hlegal⟩ := h
      obtain ⟨u, hstep, hrest, hpend, new, hout, hlen⟩ := stepIn_ports cfg hcommands hdecode
      obtain ⟨t, hrun, hdrop, htpend, htout⟩ := ih (s := u) (by rw [hrest]; exact hlegal)
      rw [hrest] at hdrop htout
      rw [hstep, andThen_next, List.drop_succ_cons, List.take_succ_cons, List.map_cons, List.sum_cons,
        samplesOfWord_of_ok cfg hdecode]
      refine ⟨t, hrun, hdrop, fun _ => htpend hpend, ?_⟩
      rw [htout, hout, List.length_append, hlen, Nat.add_assoc]

/-- Settles O9: the run takes its words one by one. -/
theorem legalStreamRunsToItsEnd : Obligations.LegalStreamRunsToItsEnd := by
  intro s k h
  obtain ⟨t, hrun, hdrop, -⟩ := runIn_of_legal reference k fun w hw => h w (List.mem_of_mem_take hw)
  exact ⟨t, by rw [run_eq_runIn, hrun], hdrop⟩

theorem runProgram_of_wf {cfg : Config} (h : cfg.Wf) (program : List Word) :
    runProgram cfg program = runIn cfg program.length (takeCommand program State.reset) := by
  rw [runProgram, powerOn_of_wf h, andThen_next]
  rfl

/-- Settles O53: a legal program is a run of legal words from power-on; before a reserved word stands such a run, and the step
after it is refused. -/
theorem programRunsFromPowerOn : Obligations.ProgramRunsFromPowerOn := by
  intro cfg program
  refine ⟨fun hwf hlegal => ?_, fun hwf before after w hprogram hbefore hreserved => ?_, fun hwf => ?_⟩
  · obtain ⟨t, hrun, hdrop, hpend, hout⟩ := runIn_of_legal cfg program.length (s := takeCommand program State.reset)
      fun w hw => hlegal w (List.mem_of_mem_take hw)
    rw [takeCommand_commands, List.drop_length] at hdrop
    rw [takeCommand_commands, List.take_length, takeCommand_out] at hout
    refine ⟨t, by rw [runProgram_of_wf hwf, hrun], hdrop, hpend rfl, hout.trans (Nat.zero_add _)⟩
  · subst hprogram
    obtain ⟨t, hrun, hdrop, -⟩ := runIn_of_legal cfg before.length (s := takeCommand (before ++ w :: after) State.reset)
      (by rw [takeCommand_commands, List.take_left]; exact hbefore)
    rw [takeCommand_commands, List.drop_left] at hdrop
    rw [runProgram_of_wf hwf, List.length_append, runIn_add, hrun, andThen_next, List.length_cons, runIn_succ]
    cases hdecode : decodeWord w with
    | ok i => exact absurd hdecode (hreserved i)
    | error e => rw [stepIn_of_error cfg hdrop hdecode, andThen_refused]; rfl
  · rw [runProgram, powerOn_of_not_wf hwf, andThen_refused]

/-! ### Synthesis commands as words -/

theorem samples_takeCommand (cfg : Config) (n : Nat) (rest : List Word) (s : State) :
    samples cfg n (takeCommand rest s) = takeCommand rest (samples cfg n s) := by
  simp only [samples_eq, codesFrom, ticks_eq]
  rfl

/-- A command that is no update is a run of SAMPLEs. -/
theorem execState_eq_samples (cfg : Config) {i : Instr} (h : ∀ v c f, i ≠ .update v c f) (s : State) :
    execState cfg i s = samples cfg (samplesOfInstr cfg i) s := by
  cases i with
  | update v c f => exact absurd rfl (h v c f)
  | sample => rfl
  | fill => rfl

/-- A step over a synthesis word drains the pending updates and is a run of SAMPLEs. -/
theorem stepIn_synthesisWord (cfg : Config) {w : Word} {i : Instr} (hd : decodeWord w = .ok i)
    (hi : ∀ v c f, i ≠ .update v c f) (rest : List Word) (s : State) :
    stepIn cfg (takeCommand (w :: rest) s) = .next (takeCommand rest (samples cfg (samplesOfInstr cfg i) (drainPending s))) := by
  have h := stepIn_of_legal cfg (takeCommand_commands (w :: rest) s) hd
  rw [drainPending_takeCommand, drainPending_takeCommand, execState_eq_samples cfg hi] at h
  exact h.trans (congrArg Host.Outcome.next (samples_takeCommand cfg _ rest (drainPending s)))

theorem stepIn_sampleWord (cfg : Config) (rest : List Word) (s : State) :
    stepIn cfg (takeCommand (encode .sample :: rest) s) = .next (takeCommand rest (sample cfg (drainPending s))) :=
  stepIn_synthesisWord cfg decodeWord_sampleWord nofun rest s

theorem stepIn_fillWord (cfg : Config) (rest : List Word) (s : State) :
    stepIn cfg (takeCommand (encode .fill :: rest) s) = .next (takeCommand rest (fill cfg (drainPending s))) :=
  stepIn_synthesisWord cfg decodeWord_fillWord nofun rest s

/-- A run of SAMPLE words drains the pending updates and is a run of SAMPLEs. -/
theorem runIn_sampleWords (cfg : Config) (n : Nat) (rest : List Word) (s : State) :
    runIn cfg (n + 1) (takeCommand (List.replicate (n + 1) (encode .sample) ++ rest) s) =
      .next (takeCommand rest (samples cfg (n + 1) (drainPending s))) := by
  induction n generalizing s with
  | zero =>
    rw [runIn_succ, List.replicate_succ, List.cons_append, stepIn_sampleWord, andThen_next]
    rfl
  | succ n ih =>
    rw [runIn_succ, List.replicate_succ, List.cons_append, stepIn_sampleWord, andThen_next, ih,
      drainPending_of_nil (by rw [sample_pend, drainPending_pend])]
    rfl

/-- Settles O33: both runs drain the pending updates and are 128 SAMPLEs. -/
theorem fillWordEqualsSampleWords : Obligations.FillWordEqualsSampleWords := by
  intro s rest
  rw [run_eq_runIn]
  calc runIn reference 1 (takeCommand (encode .fill :: rest) s)
      = .next (takeCommand rest (samples reference 128 (drainPending s))) := by
        rw [runIn_succ, stepIn_fillWord, andThen_next]
        rfl
    _ = runIn reference 128 (takeCommand (List.replicate 128 (encode .sample) ++ rest) s) :=
        (runIn_sampleWords reference 127 rest s).symm

theorem samples_samePhase (cfg : Config) (n : Nat) (s : State) :
    SamePhase (ticks cfg (ticksDueFor cfg s.rateAccumulator n) s) (samples cfg n s) := by
  rw [samples_eq]
  exact ⟨rfl, rfl, rfl, rfl⟩

/-- Settles O35: such a step is an idle one or a run of SAMPLEs, whose ticks and samples the accumulator accounts for. -/
theorem onlyUpdateWritesRegisters : Obligations.OnlyUpdateWritesRegisters := by
  intro s t hstep hpend hnoUpdate
  rcases step_cases hstep with ⟨-, rfl⟩ | ⟨w, rest, i, hcommands, hdecode, rfl⟩
  · exact ⟨⟨rfl, rfl, rfl⟩, 0, 0, ⟨rfl, rfl, rfl, rfl⟩, rfl, rfl⟩
  · have hi : ∀ v c f, i ≠ .update v c f := by
      rintro v c f rfl
      exact hnoUpdate w rest v c f hcommands hdecode
    rw [drainPending_takeCommand, drainPending_of_nil hpend, execState_eq_samples reference hi, samples_takeCommand]
    exact ⟨⟨samples_volume _ _ s, samples_control _ _ s, samples_frequencyDivider _ _ s⟩, _, _, samples_samePhase _ _ s,
      samples_rateAccumulator_add (by decide) _ s,
      (congrArg List.length (samples_out _ _ s)).trans (by rw [List.length_append, codesFrom_length])⟩

/-! ### Channels -/

theorem stepChannel_eq_next {cfg : Config} {n : Nat} {i : Fin n} {v v' : Channels n} :
    stepChannel cfg i v = .next v' ↔ ∃ t, stepIn cfg v[i] = .next t ∧ v.set i t = v' := by
  rw [stepChannel, andThen_eq_next]
  simp only [Host.Outcome.next.injEq]

/-- A channel's own run, seen from before and from after one step of some channel. -/
theorem runIn_count_cons {cfg : Config} {n : Nat} {i : Fin n} {v : Channels n} {t : State}
    (h : stepIn cfg v[i] = .next t) (sched : List (Fin n)) (j : Fin n) :
    runIn cfg ((i :: sched).count j) v[j] = runIn cfg (sched.count j) (v.set i t)[j] := by
  by_cases hij : i = j
  · subst hij
    rw [List.count_cons_self, runIn_succ, h, andThen_next]
    simp
  · have hval : i.val ≠ j.val := fun heq => hij (Fin.ext heq)
    rw [List.count_cons_of_ne hij]
    simp [Vector.getElem_set_ne, hval]

/-- Settles O49, by induction on the schedule: a step of one channel is the first step of its own run and keeps the others. -/
theorem channelsDoNotInterfere : Obligations.ChannelsDoNotInterfere := by
  intro cfg n sched v
  induction sched generalizing v with
  | nil =>
    refine ⟨fun v' h i => ?_, fun _ => ⟨v, rfl⟩⟩
    obtain rfl := Host.Outcome.next.inj h
    rfl
  | cons i sched ih =>
    constructor
    · intro v' h j
      obtain ⟨u, hu, hrun⟩ := andThen_eq_next.1 h
      obtain ⟨t, hstep, rfl⟩ := stepChannel_eq_next.1 hu
      rw [runIn_count_cons hstep]
      exact (ih (v.set i t)).1 v' hrun j
    · intro halone
      obtain ⟨u, hu⟩ := halone i
      rw [List.count_cons_self, runIn_succ] at hu
      obtain ⟨t, hstep, -⟩ := andThen_eq_next.1 hu
      obtain ⟨v', hrun⟩ := (ih (v.set i t)).2 fun j => by
        rw [← runIn_count_cons hstep]
        exact halone j
      exact ⟨v', andThen_eq_next.2 ⟨v.set i t, stepChannel_eq_next.2 ⟨t, hstep, rfl⟩, hrun⟩⟩

end Sys2Proof.Machine
end

section
/-! The encoder against the decoder (`30_encoding.md` R71 to R76), on words and on bytes, and table entries in their stored form
(`00_scope.md` R10). -/

namespace Sys2Proof

/-! ### The fields of an encoded command -/

section
variable (op : BitVec 4) (v c f : BitVec 8)

theorem bits31to24_formatU : (formatU op v c f).extractLsb' 24 8 = op ++ 0#4 := by
  rw [formatU, BitVec.extractLsb'_append_eq_of_le (by decide), BitVec.extractLsb'_append_eq_of_le (by decide)]
  exact BitVec.extractLsb'_append_eq_left

theorem volField_formatU : volField (formatU op v c f) = v := by
  rw [volField, formatU, BitVec.extractLsb'_append_eq_of_le (by decide), BitVec.extractLsb'_append_eq_of_le (by decide)]
  exact BitVec.extractLsb'_append_eq_right

theorem ctlField_formatU : ctlField (formatU op v c f) = c := by
  rw [ctlField, formatU, BitVec.extractLsb'_append_eq_of_le (by decide)]
  exact BitVec.extractLsb'_append_eq_right

theorem frqField_formatU : frqField (formatU op v c f) = f := by
  rw [frqField, formatU]
  exact BitVec.extractLsb'_append_eq_right

end

/-- An operand in range is the value of its field. -/
theorem sext8_field8 {v : Int} (h : fitsSigned8 v = true) : sext8 (field8 v) = v := by
  rw [fitsSigned8, Bool.and_eq_true, decide_eq_true_iff, decide_eq_true_iff] at h
  obtain ⟨hlo, hhi⟩ := h
  exact BitVec.toInt_ofInt_eq_self (by decide) hlo (Int.lt_add_one_of_le hhi)

theorem field8_sext8 (b : BitVec 8) : field8 (sext8 b) = b := BitVec.ofInt_toInt

theorem fitsSigned8_sext8 (b : BitVec 8) : fitsSigned8 (sext8 b) = true := by
  rw [fitsSigned8, Bool.and_eq_true, decide_eq_true_iff, decide_eq_true_iff]
  exact ⟨BitVec.le_toInt b, Int.le_of_lt_add_one BitVec.toInt_lt⟩

/-! ### Words and bytes -/

theorem decodeWord_encode {i : Instr} (h : i.wellFormed = true) : decodeWord (encode i) = .ok i := by
  cases i with
  | update v c f =>
    rw [Instr.wellFormed, Bool.and_eq_true, Bool.and_eq_true] at h
    obtain ⟨⟨hv, hc⟩, hf⟩ := h
    rw [encode, decodeWord_of_bits31to24 (bits31to24_formatU ..), updateOperands, volField_formatU, ctlField_formatU,
      frqField_formatU, sext8_field8 hv, sext8_field8 hc, sext8_field8 hf]
  | sample => exact decodeWord_sampleWord
  | fill => exact decodeWord_fillWord

theorem decodeBytes_bytesOfWord (w : Word) (rest : List Byte) :
    decodeBytes (bytesOfWord w ++ rest) = (decodeWord w).map fun i => (i, rest) := by
  have h : decodeBytes (bytesOfWord w ++ rest) =
      (decodeWord (BitVec.ofNat 32 (natOfLeBytes (bytesOfWord w)))).map fun i => (i, rest) := by
    rw [bytesOfWord, leBytes, leBytes, leBytes, leBytes, leBytes]
    cases hd : decodeWord _ <;> simp only [List.cons_append, List.nil_append, decodeBytes, wordOfBytes, hd] <;> rfl
  rw [h, wordOfBytes_bytesOfWord]

/-- Settles O1: the decoder reads the fields the encoder wrote, and the word its bytes stand for. -/
theorem decodeOfEncodeIsTheCommand : Obligations.DecodeOfEncodeIsTheCommand := by
  intro i rest h
  refine ⟨decodeWord_encode h, ?_⟩
  rw [encodeBytes, decodeBytes_bytesOfWord, decodeWord_encode h]
  rfl

/-- The fields of an `UPDATE` word, put together again. -/
theorem encode_updateOperands {w : Word} (h : w.extractLsb' 24 8 = 0x10#8) : encode (updateOperands w) = w := by
  rw [updateOperands, encode, field8_sext8, field8_sext8, field8_sext8, formatU, volField, ctlField, frqField,
    show 0b0001#4 ++ 0#4 = w.extractLsb' 24 8 from h.symm,
    BitVec.extractLsb'_append_extractLsb'_eq_extractLsb' (by rfl),
    BitVec.extractLsb'_append_extractLsb'_eq_extractLsb' (by rfl),
    BitVec.extractLsb'_append_extractLsb'_eq_extractLsb' (by rfl)]
  exact BitVec.extractLsb'_eq_self

/-- Settles O2, by the three conditions under which the decoder answers a command. -/
theorem encodeOfDecodeIsTheWord : Obligations.EncodeOfDecodeIsTheWord := by
  intro w i h
  rw [decodeWord_eq] at h
  split_ifs at h with hu hs hf <;> cases h
  · refine ⟨?_, encode_updateOperands hu⟩
    rw [updateOperands, Instr.wellFormed, fitsSigned8_sext8, fitsSigned8_sext8, fitsSigned8_sext8]
    rfl
  · exact ⟨rfl, hs.symm⟩
  · exact ⟨rfl, hf.symm⟩

/-- Settles O4: closed words, each decoded. -/
theorem workedEncodingsDecode : Obligations.WorkedEncodingsDecode := by
  unfold Obligations.WorkedEncodingsDecode
  decide

/-! ### Stored table entries -/

theorem readStored_cons (x : Int) {l : List Int} (h : l ≠ []) :
    readStored (x :: l) = if 1 ≤ x then (readStored l).map (x.toNat :: ·) else none := by
  cases l with
  | nil => exact absurd rfl h
  | cons y rest => rfl

theorem readStored_map_ofNat {seq : List Nat} (h : ∀ r ∈ seq, 1 ≤ r) :
    readStored (seq.map Int.ofNat ++ [SENTINEL]) = some seq := by
  induction seq with
  | nil => rfl
  | cons r rs ih =>
    obtain ⟨hr, hrs⟩ := List.forall_mem_cons.1 h
    have hr' : (1 : Int) ≤ Int.ofNat r := Int.ofNat_le.2 hr
    rw [List.map_cons, List.cons_append, readStored_cons _ (by simp), if_pos hr', ih hrs]
    rfl

theorem of_readStored_eq_some {l : List Int} {seq : List Nat} (h : readStored l = some seq) :
    (∀ r ∈ seq, 1 ≤ r) ∧ seq.map Int.ofNat ++ [SENTINEL] = l := by
  induction l generalizing seq with
  | nil => cases h
  | cons x l ih =>
    by_cases hl : l = []
    · subst hl
      rw [readStored] at h
      split_ifs at h with hx
      obtain rfl := Option.some.inj h
      exact ⟨nofun, by rw [hx]; rfl⟩
    · rw [readStored_cons x hl] at h
      split_ifs at h with hx
      obtain ⟨rs, hrs, rfl⟩ := Option.map_eq_some_iff.1 h
      obtain ⟨hpos, hstored⟩ := ih hrs
      refine ⟨List.forall_mem_cons.2 ⟨by omega, hpos⟩, ?_⟩
      rw [List.map_cons, List.cons_append, hstored]
      exact congrArg (· :: l) (Int.toNat_of_nonneg (by omega))

/-- What `ofStored` takes: a readable sequence that is not empty and a divisor of at least 1. -/
theorem ofStored_eq_some_iff {l : List Int} {d : Int} {e : TableEntry} :
    TableEntry.ofStored l d = some e ↔ readStored l = some e.seq ∧ e.seq ≠ [] ∧ 1 ≤ d ∧ e.div = d.toNat := by
  obtain ⟨seq, div⟩ := e
  rw [TableEntry.ofStored]
  cases hread : readStored l with
  | none => simp
  | some seq' =>
    cases seq' with
    | nil => simp +contextual
    | cons r rs =>
      by_cases hd : 1 ≤ d
      · simp only [if_pos hd, Option.some.injEq, TableEntry.mk.injEq]
        constructor
        · rintro ⟨rfl, rfl⟩
          exact ⟨rfl, List.cons_ne_nil r rs, hd, rfl⟩
        · rintro ⟨rfl, -, -, rfl⟩
          exact ⟨rfl, rfl⟩
      · simp [hd]

/-- Settles O5: reading undoes storing, and what can be read was stored. -/
theorem storedTableEntriesReadBack : Obligations.StoredTableEntriesReadBack := by
  constructor
  · rintro e ⟨hne, hpos, hdiv⟩
    exact ofStored_eq_some_iff.2 ⟨readStored_map_ofNat hpos, hne, by exact_mod_cast hdiv, (Int.toNat_natCast e.div).symm⟩
  · intro l d e h
    obtain ⟨hread, hne, hd, hdiv⟩ := ofStored_eq_some_iff.1 h
    obtain ⟨hpos, hstored⟩ := of_readStored_eq_some hread
    exact ⟨⟨hne, hpos, by omega⟩, hstored, by omega⟩

end Sys2Proof

namespace Sys2Proof.Machine

/-! ### Pending updates as command words -/

/-- The word of a delivered update. -/
def updateWord (u : UpdateRecord) : Word := encode (.update u.volume u.control u.frequencyDivider)

/-- Update words before a command act as the same updates pending at it. -/
theorem run_updateWords (us : List UpdateRecord) (w : Word) (rest : List Word) (s : State)
    (h : ∀ u ∈ us, (Instr.update u.volume u.control u.frequencyDivider).wellFormed = true) :
    run (us.length + 1) { s with pend := [], commands := us.map updateWord ++ w :: rest } =
      run 1 { s with pend := us, commands := w :: rest } := by
  induction us generalizing s with
  | nil => rfl
  | cons u us ih =>
    obtain ⟨hu, hus⟩ := List.forall_mem_cons.1 h
    have hstep : step { s with pend := [], commands := (u :: us).map updateWord ++ w :: rest } =
        .next { applyUpdate u.volume u.control u.frequencyDivider s with
          pend := [], commands := us.map updateWord ++ w :: rest } :=
      (congrFun step_eq_stepIn _).trans (stepIn_of_legal reference rfl (decodeWord_encode hu))
    have hdrain : run 1 { applyUpdate u.volume u.control u.frequencyDivider s with pend := us, commands := w :: rest } =
        run 1 { s with pend := u :: us, commands := w :: rest } := rfl
    rw [List.length_cons, run_succ_of_next _ hstep, ih _ hus, hdrain]

/-- Settles O18: the state itself has its updates pending and its command presented. -/
theorem pendingUpdatesActAsCommands : Obligations.PendingUpdatesActAsCommands := by
  intro s w rest hwf hcommands _
  have h := run_updateWords s.pend w rest s hwf
  rw [← hcommands] at h
  rw [← hcommands]
  exact h

end Sys2Proof.Machine
end

section
/-! The rendering of samples (`30_encoding.md` R84, R85): rounding to nearest in any format with room for 1/30, and the bytes of
words and renderings (`20_memory.md` R54). -/

namespace Sys2Proof.Machine

/-! ### Rounding -/

/-- The scale of a nonzero code: `n/30 * 2^k` lies in [1, 2), for a `k` from 1 to 5. -/
theorem binaryScale_code : ∀ n : SampleCode, n ≠ 0 →
    30 ≤ n.toNat * 2 ^ binaryScale n.toNat VOL_DEN ∧ n.toNat * 2 ^ binaryScale n.toNat VOL_DEN < 60 ∧
      1 ≤ binaryScale n.toNat VOL_DEN ∧ binaryScale n.toNat VOL_DEN ≤ 5 := by decide

/-- An even number is no odd multiple of 15, so over 30 there is no tie. -/
theorem roundHalfEven_of_even {a : Nat} (h : 2 ∣ a) :
    a < 30 * roundHalfEven a VOL_DEN + 15 ∧ 30 * roundHalfEven a VOL_DEN < a + 15 := by
  unfold roundHalfEven VOL_DEN
  split_ifs <;> omega

/-- With four exponent bits the bias is at least 7. -/
theorem seven_le_expBias {fmt : FloatFmt} (h : fmt.Wf) : 7 ≤ expBias fmt := by
  obtain ⟨hexp, -⟩ := h
  have := Nat.pow_le_pow_right (show 0 < 2 by decide) (show 3 ≤ fmt.expBits - 1 by omega)
  rw [expBias]
  omega

theorem two_pow_expBits {fmt : FloatFmt} (h : fmt.Wf) : 2 ^ fmt.expBits = 2 * (expBias fmt + 1) := by
  obtain ⟨hexp, -⟩ := h
  rw [expBias, Nat.sub_add_cancel (Nat.two_pow_pos _), Nat.mul_comm, Nat.two_pow_pred_mul_two (by omega)]

theorem renderCode_zero (fmt : FloatFmt) : renderCode fmt 0 = .zero := rfl

theorem renderCode_zero_pattern (fmt : FloatFmt) : (renderCode fmt 0).pattern fmt = 0 := by
  rw [renderCode_zero]
  simp [FloatBits.pattern, FloatBits.zero]

section
variable {fmt : FloatFmt} {n : SampleCode}

/-- The significand of a code, scaled to an integer and rounded. -/
def significand (fmt : FloatFmt) (n : SampleCode) : Nat :=
  roundHalfEven (n.toNat * 2 ^ (binaryScale n.toNat VOL_DEN + fmt.fracBits)) VOL_DEN

theorem renderCode_of_ne_zero (fmt : FloatFmt) (hn : n ≠ 0) :
    renderCode fmt n =
      if significand fmt n < 2 ^ (fmt.fracBits + 1) then
        ⟨false, expBias fmt - binaryScale n.toNat VOL_DEN, significand fmt n - 2 ^ fmt.fracBits⟩
      else ⟨false, expBias fmt - binaryScale n.toNat VOL_DEN + 1, 0⟩ := by
  have hne : n.toNat ≠ 0 := fun h => hn (BitVec.eq_of_toNat_eq h)
  rw [renderCode, renderVolume, if_neg hne]
  rfl

variable (hwf : fmt.Wf)
include hwf

/-- The significand is less than half a unit from the scaled quotient. -/
theorem significand_near :
    n.toNat * 2 ^ (binaryScale n.toNat VOL_DEN + fmt.fracBits) < 30 * significand fmt n + 15 ∧
      30 * significand fmt n < n.toNat * 2 ^ (binaryScale n.toNat VOL_DEN + fmt.fracBits) + 15 := by
  obtain ⟨-, hfrac⟩ := hwf
  exact roundHalfEven_of_even (Dvd.dvd.mul_left (dvd_pow_self 2 (by omega)) _)

variable (hn : n ≠ 0)
include hn

theorem significand_mem : 2 ^ fmt.fracBits ≤ significand fmt n ∧ significand fmt n ≤ 2 ^ (fmt.fracBits + 1) := by
  obtain ⟨hlo, hhi⟩ := significand_near (n := n) hwf
  obtain ⟨hone, htwo, -, -⟩ := binaryScale_code n hn
  have hlo' := Nat.mul_le_mul_right (2 ^ fmt.fracBits) hone
  have hhi' := Nat.mul_lt_mul_of_pos_right htwo (Nat.two_pow_pos fmt.fracBits)
  rw [Nat.pow_add, ← Nat.mul_assoc] at hlo hhi
  rw [Nat.pow_succ]
  omega

/-- The rendering of a nonzero code: its exponent, its fraction, and its magnitude whether or not rounding carried. -/
theorem renderCode_spec :
    (renderCode fmt n).negative = false ∧
      expBias fmt - binaryScale n.toNat VOL_DEN ≤ (renderCode fmt n).biasedExp ∧
      (renderCode fmt n).biasedExp ≤ expBias fmt - binaryScale n.toNat VOL_DEN + 1 ∧
      (renderCode fmt n).fraction < 2 ^ fmt.fracBits ∧
      (renderCode fmt n).magnitude fmt = significand fmt n * 2 ^ (expBias fmt - binaryScale n.toNat VOL_DEN) := by
  obtain ⟨hlo, hhi⟩ := significand_mem hwf hn
  rw [renderCode_of_ne_zero fmt hn]
  split_ifs with hcarry
  · rw [Nat.pow_succ] at hcarry
    refine ⟨rfl, le_rfl, Nat.le_succ _, by dsimp only; omega, ?_⟩
    rw [FloatBits.magnitude, Nat.add_sub_cancel' hlo]
  · refine ⟨rfl, Nat.le_succ _, le_rfl, Nat.two_pow_pos _, ?_⟩
    rw [FloatBits.magnitude, Nat.add_zero, le_antisymm hhi (Nat.le_of_not_lt hcarry), Nat.pow_succ', Nat.pow_succ']
    ring

theorem renderCode_isNormal : (renderCode fmt n).isNormal fmt = true := by
  obtain ⟨-, hexpLo, hexpHi, hfrac, -⟩ := renderCode_spec hwf hn
  obtain ⟨-, -, hone, hfive⟩ := binaryScale_code n hn
  have hbias := seven_le_expBias hwf
  have htop := two_pow_expBits hwf
  rw [FloatBits.isNormal, Bool.and_eq_true, Bool.and_eq_true, decide_eq_true_iff, decide_eq_true_iff, decide_eq_true_iff]
  exact ⟨⟨by omega, by omega⟩, hfrac⟩

/-- Half a unit of the significand is less than half a unit in the last place. -/
theorem renderCode_near :
    let exact : Int := n.toNat * 2 ^ (expBias fmt + fmt.fracBits)
    2 * (30 * ((renderCode fmt n).magnitude fmt : Int) - exact) < 30 * 2 ^ (renderCode fmt n).biasedExp ∧
      2 * (exact - 30 * ((renderCode fmt n).magnitude fmt : Int)) < 30 * 2 ^ (renderCode fmt n).biasedExp := by
  obtain ⟨-, hexp, -, -, hmag⟩ := renderCode_spec hwf hn
  obtain ⟨hlo, hhi⟩ := significand_near (n := n) hwf
  obtain ⟨-, -, -, hfive⟩ := binaryScale_code n hn
  have hbias := seven_le_expBias hwf
  have hscale : n.toNat * 2 ^ (expBias fmt + fmt.fracBits) =
      n.toNat * 2 ^ (binaryScale n.toNat VOL_DEN + fmt.fracBits) * 2 ^ (expBias fmt - binaryScale n.toNat VOL_DEN) := by
    rw [Nat.mul_assoc, ← Nat.pow_add]
    congr 2
    omega
  have hulp := Nat.pow_le_pow_right (show 0 < 2 by decide) hexp
  have hlo' := Nat.mul_lt_mul_of_pos_right hlo (Nat.two_pow_pos (expBias fmt - binaryScale n.toNat VOL_DEN))
  have hhi' := Nat.mul_lt_mul_of_pos_right hhi (Nat.two_pow_pos (expBias fmt - binaryScale n.toNat VOL_DEN))
  rw [← hscale, Nat.add_mul, Nat.mul_assoc, ← hmag] at hlo'
  rw [Nat.add_mul, ← hscale, Nat.mul_assoc, ← hmag] at hhi'
  zify at hlo' hhi' hulp
  constructor <;> linarith

theorem renderCode_pattern_lt_of_ne_zero : (renderCode fmt n).pattern fmt < 2 ^ (fmt.expBits + fmt.fracBits) := by
  obtain ⟨hsign, -, hexp, hfrac, -⟩ := renderCode_spec hwf hn
  obtain ⟨-, -, hone, -⟩ := binaryScale_code n hn
  have htop := two_pow_expBits hwf
  have hexp' : (renderCode fmt n).biasedExp + 1 ≤ 2 ^ fmt.expBits := by omega
  have hle := Nat.mul_le_mul_right (2 ^ fmt.fracBits) hexp'
  rw [Nat.add_mul, Nat.one_mul] at hle
  rw [FloatBits.pattern, hsign, Nat.pow_add]
  simp only [Bool.false_eq_true, if_false]
  omega

end

/-- The pattern fits the exponent and the fraction field. -/
theorem renderCode_pattern_lt {fmt : FloatFmt} (hwf : fmt.Wf) (n : SampleCode) :
    (renderCode fmt n).pattern fmt < 2 ^ (fmt.expBits + fmt.fracBits) := by
  by_cases hn : n = 0
  · subst hn
    rw [renderCode_zero_pattern]
    exact Nat.two_pow_pos _
  · exact renderCode_pattern_lt_of_ne_zero hwf hn

/-! ### Level and volume -/

theorem render_false (fmt : FloatFmt) (v : Fin 16) : render fmt false v = .zero := rfl

theorem render_volume_zero (fmt : FloatFmt) (l : Bool) : render fmt l 0 = .zero := by cases l <;> rfl

theorem render_eq_renderCode (fmt : FloatFmt) (s : State) :
    render fmt s.currentLevel s.volume = renderCode fmt (sampleNumerator s) := by
  rw [renderCode, sampleNumerator_toNat]
  cases s.currentLevel with
  | false => rw [levelValue_false, Nat.zero_mul]; rfl
  | true => rw [levelValue_true, Nat.one_mul]; rfl

/-- Settles O47: the significand has no tie, the exponent stays in the normal range, and a zero has its own pattern. -/
theorem renderingRoundsToNearest : Obligations.RenderingRoundsToNearest := by
  intro fmt hwf
  refine ⟨fun n hn => ?_, renderCode_zero fmt, render_false fmt, render_volume_zero fmt, render_eq_renderCode fmt⟩
  obtain ⟨hnegative, -⟩ := renderCode_spec hwf hn
  exact ⟨hnegative, renderCode_isNormal hwf hn, renderCode_near hwf hn⟩

/-- Settles O48: the model evaluated at the sixteen codes. -/
theorem sampleBitPatternsMatchTheTable : Obligations.SampleBitPatternsMatchTheTable :=
  ⟨by decide, by decide, by decide +kernel⟩

/-! ### Bytes -/

theorem extractLsb'_byte (w : Word) (i : Nat) : w.extractLsb' (8 * i) 8 = BitVec.ofNat 8 (w.toNat / 2 ^ (8 * i)) := by
  rw [← Nat.shiftRight_eq_div_pow]
  rfl

theorem natOfLeBytes_bytesOfWord (w : Word) : natOfLeBytes (bytesOfWord w) = w.toNat := by
  rw [bytesOfWord, natOfLeBytes_leBytes]
  exact Nat.mod_eq_of_lt w.isLt

theorem bytesOfWord_eq (w : Word) :
    bytesOfWord w = [w.extractLsb' 0 8, w.extractLsb' 8 8, w.extractLsb' 16 8, w.extractLsb' 24 8] := by
  refine List.ext_getElem? fun i => ?_
  by_cases hi : i < 4
  · rw [bytesOfWord, leBytes_getElem? 4 _ i hi, ← extractLsb'_byte]
    interval_cases i <;> rfl
  · rw [List.getElem?_eq_none (by rw [bytesOfWord, leBytes_length]; omega), List.getElem?_eq_none (by simpa using hi)]

theorem pattern_fits (fmt : FloatFmt) (hwf : fmt.Wf) (n : SampleCode) :
    (renderCode fmt n).pattern fmt < 2 ^ (8 * byteCount fmt) :=
  (renderCode_pattern_lt hwf n).trans_le (Nat.pow_le_pow_right (by decide) (by rw [byteCount]; omega))

/-- Settles O55: the bytes of a number below `2^(8k)`, read and read back, for words and for renderings. -/
theorem storedBytesAreLittleEndian : Obligations.StoredBytesAreLittleEndian := by
  refine ⟨fun w => ⟨bytesOfWord_eq w, natOfLeBytes_bytesOfWord w⟩, fun fmt n hwf => ⟨?_, fun i hi => ?_, ?_⟩,
    by decide, by decide⟩
  · rw [sampleBytes, FloatBits.bytes, leBytes_length]
  · rw [sampleBytes, FloatBits.bytes, leBytes_getElem? _ _ i hi]
  · rw [sampleBytes, FloatBits.bytes, natOfLeBytes_leBytes, Nat.mod_eq_of_lt (pattern_fits fmt hwf n)]

end Sys2Proof.Machine
end
